-- ==== Sys2Proof/Word.lean ====
section
/-! DEFINITION. The words the block moves (R10, R90): one data byte, one 16-bit bus address, one
32-bit transaction word. -/

namespace Sys2Proof

/-- A data byte (R10: data is 8 bits). -/
abbrev Byte := BitVec 8

/-- The address field of a transaction word: 16 bits (R10, R90). A PPU address is 14 bits wide and
stands in the same field with bits 15:14 zero (R91). -/
abbrev Addr := BitVec 16

/-- A transaction word: op in bits 31:24, address in 23:8, data in 7:0 (R90). -/
abbrev Word := BitVec 32

end Sys2Proof
end

