-- ==== Sys2Proof/Config.lean ====
section
/-! DEFINITION. The load-time configuration (R8, R9): the family names, the mirroring modes, byte
arrays, and the record the host hands to INIT. Every parameter the source leaves open (`OPEN_BUS`,
`PRESCALER_RELOAD`, `CHANNEL_DIVISOR`, `has_prg_ram`, `conflict_when_unspecified`, the initial RAM
contents) is a field of that record, so a statement about every state holds for every value of it
(93_implementation_defined.md part 1). Beside it stand two free values: what RESTORE makes of a saved
divider or prescaler that lies outside this cartridge's range. -/

namespace Sys2Proof

/-- The six families (R3). -/
inductive Family where
  | fix
  | dsc
  | ser
  | scn
  | cyc
  | mux
  deriving DecidableEq, Repr

/-- The five nametable mirroring modes, in the order of their numeric code 0 to 4 (R24). -/
inductive Mirr where
  | horizontal
  | vertical
  | singleLow
  | singleHigh
  | fourScreen
  deriving DecidableEq, Repr

/-- The contents of a byte array whose length is known from elsewhere: (offset, byte) pairs with
strictly rising offsets, and no pair whose byte is the one an unlisted offset reads as. -/
abbrev Mem := List Host.Cell

/-- A byte array the host refers to: how many bytes it has, and what they are. -/
structure Image where
  size  : Nat
  cells : Mem
  deriving DecidableEq, Repr

/-- The configuration INIT consumes (R8 and R9). It never changes after load. -/
structure Cfg where
  /-- selects the family (R241) -/
  mapper : Nat
  /-- `none` when absent or malformed (R8); read for family DSC only (R142) -/
  submapper : Option Nat
  /-- program ROM size in 16 KiB units -/
  prgBanks : Nat
  /-- graphics ROM size in 8 KiB units; 0 means graphics RAM instead -/
  chrBanks : Nat
  /-- consumed, read by no rule (R248) -/
  battery : Bool
  /-- mirroring mode at load -/
  initMirr : Mirr
  /-- program ROM contents (R8), referenced and immutable -/
  prgRom : Image
  /-- graphics ROM contents (R8), referenced and immutable -/
  chrRom : Image
  /-- whether the board has program RAM (R9) -/
  hasPrgRam : Bool
  /-- `OPEN_BUS` (R9) -/
  openBus : Byte
  /-- what an unspecified bus-conflict policy resolves to (R9, R142) -/
  conflictWhenUnspecified : Bool
  /-- `PRESCALER_RELOAD` (R9), at least 1 -/
  prescalerReload : Nat
  /-- `CHANNEL_DIVISOR` (R9), at least 1 -/
  channelDivisor : Nat
  /-- `prg_ram_init` (R9): the 8192 bytes program RAM holds after load -/
  prgRamInit : Mem
  /-- `chr_ram_init` (R9): the 8192 bytes graphics RAM holds after load -/
  chrRamInit : Mem
  deriving DecidableEq, Repr

/-- What CH.div holds after RESTORE of a value not below `divisor`, before it is brought into the range
of R38: the spec states none. Free value, DESIGN CHOICE, log entry 17. -/
opaque Config.freeDivider : (divisor saved : Nat) → Nat

/-- What IRQ.prescaler holds after RESTORE of a value above `reload`, before it is brought into the
range of R35: the spec states none. Free value, DESIGN CHOICE, log entry 17. -/
opaque Config.freePrescaler : (reload saved : Nat) → Nat

end Sys2Proof
end

