-- ==== Sys2Proof/Syntax.lean ====
section
/-! DEFINITION. The operations of the block (R92), one constructor for each row of the opcode table
and in its order. `a` is the address field and `d` the data field of the transaction word; the
operand INIT and RESTORE take outside the word (R91) is presented beside it (`HostOperand`). -/

namespace Sys2Proof

inductive Instr where
  /-- PRG.RD (R124): CPU read of program ROM -/
  | prgRd (a : Addr)
  /-- RAM.RD (R125): CPU read of the program-RAM window -/
  | ramRd (a : Addr)
  /-- EXP.RD (R126): CPU read of the expansion region -/
  | expRd (a : Addr)
  /-- MUX.COUNT (R210): write the active-channel count -/
  | muxCount (a : Addr) (d : Byte)
  /-- RAM.WR (R127): CPU write into the program-RAM window -/
  | ramWr (a : Addr) (d : Byte)
  /-- EXP.WR (R128): CPU write into the expansion region that no command claims -/
  | expWr (a : Addr) (d : Byte)
  /-- CHR.RD (R130): PPU read of the pattern region -/
  | chrRd (a : Addr)
  /-- NT.RD (R132): PPU read of 0x2000 to 0x3FFF -/
  | ntRd (a : Addr)
  /-- CHR.WR (R131): PPU write into the pattern region -/
  | chrWr (a : Addr) (d : Byte)
  /-- NT.WR (R133): PPU write to 0x2000 to 0x3FFF -/
  | ntWr (a : Addr) (d : Byte)
  /-- DSC.BANK (R144): write the bank register -/
  | dscBank (a : Addr) (d : Byte)
  /-- SER.RESET (R151): abandon the serial sequence -/
  | serReset (a : Addr) (d : Byte)
  /-- SER.SH0 (R154): shift write in quarter 0 (`CTRL`) -/
  | serSh0 (a : Addr) (d : Byte)
  /-- SER.SH1 (R155): shift write in quarter 1 (`CHR0`) -/
  | serSh1 (a : Addr) (d : Byte)
  /-- SER.SH2 (R156): shift write in quarter 2 (`CHR1`) -/
  | serSh2 (a : Addr) (d : Byte)
  /-- SER.SH3 (R157): shift write in quarter 3 (`PRG`) -/
  | serSh3 (a : Addr) (d : Byte)
  /-- SCN.BSEL (R177): write the bank-select register -/
  | scnBsel (a : Addr) (d : Byte)
  /-- SCN.BDAT (R178): write the selected bank register -/
  | scnBdat (a : Addr) (d : Byte)
  /-- SCN.MIRR (R179): write the mirroring register -/
  | scnMirr (a : Addr) (d : Byte)
  /-- SCN.NOP (R180): write that reaches no register -/
  | scnNop (a : Addr) (d : Byte)
  /-- SCN.LATCH (R171): write the interrupt latch -/
  | scnLatch (a : Addr) (d : Byte)
  /-- SCN.RELOAD (R172): request a reload -/
  | scnReload (a : Addr) (d : Byte)
  /-- SCN.DISABLE (R173): disable and acknowledge -/
  | scnDisable (a : Addr) (d : Byte)
  /-- SCN.ENABLE (R174): enable -/
  | scnEnable (a : Addr) (d : Byte)
  /-- CYC.PRG16 (R198): write the 16 KiB program bank register -/
  | cycPrg16 (a : Addr) (d : Byte)
  /-- CYC.MIRR (R202): write the mirroring register -/
  | cycMirr (a : Addr) (d : Byte)
  /-- CYC.PRG8 (R199): write the 8 KiB program bank register -/
  | cycPrg8 (a : Addr) (d : Byte)
  /-- CYC.CHRLO (R200): write graphics bank register 0 to 3 -/
  | cycChrlo (a : Addr) (d : Byte)
  /-- CYC.CHRHI (R203): write graphics bank register 4 to 7 -/
  | cycChrhi (a : Addr) (d : Byte)
  /-- CYC.LATCH (R192): write the interrupt latch -/
  | cycLatch (a : Addr) (d : Byte)
  /-- CYC.CTRL (R193): write the interrupt control register -/
  | cycCtrl (a : Addr) (d : Byte)
  /-- CYC.ACK (R194): acknowledge the interrupt -/
  | cycAck (a : Addr) (d : Byte)
  /-- MUX.CHR (R214): write a graphics bank register -/
  | muxChr (a : Addr) (d : Byte)
  /-- MUX.PRG0 (R215): write program bank register 0 -/
  | muxPrg0 (a : Addr) (d : Byte)
  /-- MUX.PRG1 (R216): write program bank register 1 -/
  | muxPrg1 (a : Addr) (d : Byte)
  /-- MUX.PRG2 (R217): write program bank register 2 -/
  | muxPrg2 (a : Addr) (d : Byte)
  /-- ROM.NOP (R129): ROM-space write no command of the family claims -/
  | romNop (a : Addr) (d : Byte)
  /-- CLK.CYC (R190): cycle tick, family CYC -/
  | clkCyc
  /-- CLK.MUX (R211): cycle tick, family MUX -/
  | clkMux
  /-- CLK.NOP (R197): cycle tick, other families -/
  | clkNop
  /-- SCAN.SCN (R170): scanline strobe, family SCN -/
  | scanScn
  /-- SCAN.NOP (R176): scanline strobe, other families -/
  | scanNop
  /-- QMIR (R230): mirroring query -/
  | qmir
  /-- QIRQ (R231): interrupt line -/
  | qirq
  /-- INIT (R240): construct the instance -/
  | init
  /-- SAVE (R243): capture the state -/
  | save
  /-- RESTORE (R245): replace the state -/
  | restore
  /-- UNLOAD (R246): discard the instance -/
  | unload
  deriving DecidableEq, Repr

end Sys2Proof
end

