-- ==== Sys2Proof/Decode.lean ====
section
/-! DEFINITION. From a transaction word to an operation (R90 to R101) and back (R104). Decoding is
total: a word that spells no operation is rejected by the name R260 gives the reason. The phase
decides (R94): `none` is the unloaded phase, `some f` a loaded cartridge of family `f`. -/

namespace Sys2Proof

/-- Why a word spells no operation (R260), the reasons that need the word and the phase alone. -/
inductive DecodeError where
  | notAnOperation
  | notLoaded
  | alreadyLoaded
  | notInDomain
  deriving DecidableEq, Repr

/-- The kinds of operation (R91). -/
inductive BusOp where
  | cpur
  | cpuw
  | ppur
  | ppuw
  | clk
  | scan
  | qmir
  | qirq
  | init
  | save
  | restore
  | unload
  deriving DecidableEq, Repr

/-- `W[31:24]` (R90). -/
def opField (w : Word) : BitVec 8 := w.extractLsb' 24 8

/-- `W[23:8]` (R90). -/
def addrField (w : Word) : Addr := w.extractLsb' 8 16

/-- `W[7:0]` (R90). -/
def dataField (w : Word) : Byte := w.extractLsb' 0 8

/-- The values of `op` (R91). -/
def BusOp.ofCode : Nat → Option BusOp
  | 0x00 => some .cpur
  | 0x01 => some .cpuw
  | 0x02 => some .ppur
  | 0x03 => some .ppuw
  | 0x04 => some .clk
  | 0x05 => some .scan
  | 0x06 => some .qmir
  | 0x07 => some .qirq
  | 0x08 => some .init
  | 0x09 => some .save
  | 0x0A => some .restore
  | 0x0B => some .unload
  | _ => none

/-- The value of `op` an operation is encoded with (R91). -/
def BusOp.code : BusOp → BitVec 8
  | .cpur => 0x00
  | .cpuw => 0x01
  | .ppur => 0x02
  | .ppuw => 0x03
  | .clk => 0x04
  | .scan => 0x05
  | .qmir => 0x06
  | .qirq => 0x07
  | .init => 0x08
  | .save => 0x09
  | .restore => 0x0A
  | .unload => 0x0B

/-- Whether the operation uses the address field (R91). -/
def BusOp.usesAddr : BusOp → Bool
  | .cpur | .cpuw | .ppur | .ppuw => true
  | .clk | .scan | .qmir | .qirq | .init | .save | .restore | .unload => false

/-- Whether the operation uses the data field (R91). -/
def BusOp.usesData : BusOp → Bool
  | .cpuw | .ppuw => true
  | .cpur | .ppur | .clk | .scan | .qmir | .qirq | .init | .save | .restore | .unload => false

/-- A field an operation does not use must be zero (R90). -/
def BusOp.unusedZero (op : BusOp) (a : Addr) (d : Byte) : Bool :=
  (op.usesAddr || a == 0) && (op.usesData || d == 0)

/-- `q = addr[14:13]` (R93). -/
def Addr.quarter (a : Addr) : BitVec 2 := a.extractLsb' 13 2

/-- `par = addr[0]`: set for an odd address (R93). -/
def Addr.odd (a : Addr) : Bool := a.getLsbD 0

/-- `a2 = addr[1:0]` (R93). -/
def Addr.a2 (a : Addr) : BitVec 2 := a.extractLsb' 0 2

/-- `addr[15:12]`, the page family CYC decodes on (R100). -/
def Addr.page (a : Addr) : BitVec 4 := a.extractLsb' 12 4

/-- `addr[15:11]`, the block family MUX decodes on (R101). -/
def Addr.block (a : Addr) : BitVec 5 := a.extractLsb' 11 5

/-- `rst = data[7]` (R93). -/
def Byte.rst (d : Byte) : Bool := d.getLsbD 7

/-- R98: the serial port, whatever the address when `data[7] = 1`, else by quarter. -/
def decodeSer (a : Addr) (d : Byte) : Instr :=
  if d.rst then .serReset a d
  else match a.quarter.toNat with
    | 0 => .serSh0 a d
    | 1 => .serSh1 a d
    | 2 => .serSh2 a d
    | _ => .serSh3 a d

/-- R99: quarter and parity; address bits 12:1 are ignored. -/
def decodeScn (a : Addr) (d : Byte) : Instr :=
  match a.quarter.toNat, a.odd with
  | 0, false => .scnBsel a d
  | 0, true => .scnBdat a d
  | 1, false => .scnMirr a d
  | 1, true => .scnNop a d
  | 2, false => .scnLatch a d
  | 2, true => .scnReload a d
  | _, false => .scnDisable a d
  | _, true => .scnEnable a d

/-- R100: page and `a2`; address bits 11:2 are ignored. -/
def decodeCyc (a : Addr) (d : Byte) : Instr :=
  match a.page.toNat with
  | 0x8 => .cycPrg16 a d
  | 0xB => if a.a2.toNat = 3 then .cycMirr a d else .romNop a d
  | 0xC => .cycPrg8 a d
  | 0xD => .cycChrlo a d
  | 0xE => .cycChrhi a d
  | 0xF =>
    match a.a2.toNat with
    | 0 => .cycLatch a d
    | 1 => .cycCtrl a d
    | 2 => .cycAck a d
    | _ => .romNop a d
  | _ => .romNop a d

/-- R101: the block `addr[15:11]`; 0x10 to 0x17 are 0x8000 to 0xBFFF. -/
def decodeMux (a : Addr) (d : Byte) : Instr :=
  if a.block.toNat ≤ 0x17 then .muxChr a d
  else match a.block.toNat with
    | 0x1C => .muxPrg0 a d
    | 0x1D => .muxPrg1 a d
    | 0x1E => .muxPrg2 a d
    | _ => .romNop a d

/-- A write at 0x8000 or above, by family (R96 to R101). SER decodes on the data bit of the word:
R95 puts conflict resolution first, and no family decodes on data and has conflicts (DEDUCED, log
entry 9). -/
def decodeRomWrite (f : Family) (a : Addr) (d : Byte) : Instr :=
  match f with
  | .fix => .romNop a d
  | .dsc => .dscBank a d
  | .ser => decodeSer a d
  | .scn => decodeScn a d
  | .cyc => decodeCyc a d
  | .mux => decodeMux a d

/-- R94, CPUR. -/
def decodeCpuRead (a : Addr) : Except DecodeError Instr :=
  if a.toNat < 0x4020 then .error .notInDomain
  else if a.toNat ≤ 0x5FFF then .ok (.expRd a)
  else if a.toNat ≤ 0x7FFF then .ok (.ramRd a)
  else .ok (.prgRd a)

/-- R95, CPUW. -/
def decodeCpuWrite (f : Family) (a : Addr) (d : Byte) : Except DecodeError Instr :=
  if a.toNat < 0x4020 then .error .notInDomain
  else if a.toNat ≤ 0x5FFF then
    if f = .mux ∧ 0x4800 ≤ a.toNat ∧ a.toNat ≤ 0x4FFF then .ok (.muxCount a d)
    else .ok (.expWr a d)
  else if a.toNat ≤ 0x7FFF then .ok (.ramWr a d)
  else .ok (decodeRomWrite f a d)

/-- R94, PPUR. -/
def decodePpuRead (a : Addr) : Except DecodeError Instr :=
  if a.toNat > 0x3FFF then .error .notInDomain
  else if a.toNat ≤ 0x1FFF then .ok (.chrRd a)
  else .ok (.ntRd a)

/-- R94, PPUW. -/
def decodePpuWrite (a : Addr) (d : Byte) : Except DecodeError Instr :=
  if a.toNat > 0x3FFF then .error .notInDomain
  else if a.toNat ≤ 0x1FFF then .ok (.chrWr a d)
  else .ok (.ntWr a d)

/-- R94, CLK: the tick the family has. -/
def decodeClk : Family → Instr
  | .cyc => .clkCyc
  | .mux => .clkMux
  | .fix | .dsc | .ser | .scn => .clkNop

/-- R94, SCAN: the strobe the family has. -/
def decodeScan : Family → Instr
  | .scn => .scanScn
  | .fix | .dsc | .ser | .cyc | .mux => .scanNop

/-- R94 and R95 on a loaded cartridge of family `f`. -/
def decodeLoaded (f : Family) (op : BusOp) (a : Addr) (d : Byte) : Except DecodeError Instr :=
  match op with
  | .cpur => decodeCpuRead a
  | .cpuw => decodeCpuWrite f a d
  | .ppur => decodePpuRead a
  | .ppuw => decodePpuWrite a d
  | .clk => .ok (decodeClk f)
  | .scan => .ok (decodeScan f)
  | .qmir => .ok .qmir
  | .qirq => .ok .qirq
  | .init => .error .alreadyLoaded
  | .save => .ok .save
  | .restore => .ok .restore
  | .unload => .ok .unload

/-- The operation a word spells in a phase. The reasons come in the order of R265: the word's form,
then the phase, then the address domain. -/
def decode (phase : Option Family) (w : Word) : Except DecodeError Instr :=
  match BusOp.ofCode (opField w).toNat with
  | none => .error .notAnOperation
  | some op =>
    if op.unusedZero (addrField w) (dataField w) then
      match phase with
      | some f => decodeLoaded f op (addrField w) (dataField w)
      | none => if op = .init then .ok .init else .error .notLoaded
    else .error .notAnOperation

/-- The three fields put together (R90). -/
def pack (op : BusOp) (a : Addr) (d : Byte) : Word := op.code ++ a ++ d

/-- The word of an operation (R104). -/
def encode : Instr → Word
  | .prgRd a => pack .cpur a 0
  | .ramRd a => pack .cpur a 0
  | .expRd a => pack .cpur a 0
  | .muxCount a d => pack .cpuw a d
  | .ramWr a d => pack .cpuw a d
  | .expWr a d => pack .cpuw a d
  | .chrRd a => pack .ppur a 0
  | .ntRd a => pack .ppur a 0
  | .chrWr a d => pack .ppuw a d
  | .ntWr a d => pack .ppuw a d
  | .dscBank a d => pack .cpuw a d
  | .serReset a d => pack .cpuw a d
  | .serSh0 a d => pack .cpuw a d
  | .serSh1 a d => pack .cpuw a d
  | .serSh2 a d => pack .cpuw a d
  | .serSh3 a d => pack .cpuw a d
  | .scnBsel a d => pack .cpuw a d
  | .scnBdat a d => pack .cpuw a d
  | .scnMirr a d => pack .cpuw a d
  | .scnNop a d => pack .cpuw a d
  | .scnLatch a d => pack .cpuw a d
  | .scnReload a d => pack .cpuw a d
  | .scnDisable a d => pack .cpuw a d
  | .scnEnable a d => pack .cpuw a d
  | .cycPrg16 a d => pack .cpuw a d
  | .cycMirr a d => pack .cpuw a d
  | .cycPrg8 a d => pack .cpuw a d
  | .cycChrlo a d => pack .cpuw a d
  | .cycChrhi a d => pack .cpuw a d
  | .cycLatch a d => pack .cpuw a d
  | .cycCtrl a d => pack .cpuw a d
  | .cycAck a d => pack .cpuw a d
  | .muxChr a d => pack .cpuw a d
  | .muxPrg0 a d => pack .cpuw a d
  | .muxPrg1 a d => pack .cpuw a d
  | .muxPrg2 a d => pack .cpuw a d
  | .romNop a d => pack .cpuw a d
  | .clkCyc => pack .clk 0 0
  | .clkMux => pack .clk 0 0
  | .clkNop => pack .clk 0 0
  | .scanScn => pack .scan 0 0
  | .scanNop => pack .scan 0 0
  | .qmir => pack .qmir 0 0
  | .qirq => pack .qirq 0 0
  | .init => pack .init 0 0
  | .save => pack .save 0 0
  | .restore => pack .restore 0 0
  | .unload => pack .unload 0 0

/-- The phase and family under which a table word is read when no cartridge says which: one row for
each word of the opcode table. Several rows share one word and differ in the family only (R92), so a
bare word can be read as one of them; every family has words that are read as its own (DESIGN
CHOICE, log entry 2). -/
def tablePhase (w : Word) : Option Family :=
  let a := (addrField w).toNat
  match BusOp.ofCode (opField w).toNat with
  | some .init => none
  | some .clk => some .cyc
  | some .scan => some .scn
  | some .cpuw =>
    if 0x4800 ≤ a ∧ a ≤ 0x4FFF then some .mux
    else if a < 0x8000 then some .fix
    else if (dataField w).rst then some .ser
    else if 0xB000 ≤ a ∧ a ≤ 0xBFFF ∧ a % 4 = 3 then some .cyc
    else if 0xF000 ≤ a ∧ a % 4 < 3 then some .cyc
    else if 0xD000 ≤ a ∧ a ≤ 0xDFFF then some .cyc
    else if 0xE800 ≤ a ∧ a ≤ 0xEFFF then some .mux
    else if a % 2 = 1 then some .scn
    else if a ≤ 0x9FFF then some .dsc
    else if a ≤ 0xBFFF then some .ser
    else if a ≤ 0xDFFF then some .scn
    else some .mux
  | _ => some .fix

/-- The table's word as a transaction word. Every operation has this one length (R90), so there is
no byte order to apply and the bits above `nbits` are zero. -/
def tableWord (nbits w : Nat) : Word := BitVec.ofNat 32 (w % 2 ^ nbits)

/-- The instruction the decoder reads from a word of the opcode table, in the phase `tablePhase`
names for it. -/
def decodeTableWord (nbits w : Nat) : Option Instr :=
  match decode (tablePhase (tableWord nbits w)) (tableWord nbits w) with
  | .ok i => some i
  | .error _ => none

end Sys2Proof
end

