-- ==== Sys2Proof/Machine/State.lean ====
section
/-! DEFINITION. The architectural state (10_state.md), as plain data: the registers of every family,
the RAM regions, the loaded instance `(Cfg, S)`, what the host presents to the block, and the output
of the last operation. The block has no program counter (R22): operations are presented from
outside, and the state holds those still to be presented. -/

namespace Sys2Proof.Machine

/-- `S.SR` (R27): the bits received so far and how many, 0 to 4. -/
structure Shift where
  acc : BitVec 5
  cnt : Fin 5
  deriving DecidableEq, Repr

/-- `S.IRQ` (R35). -/
structure Irq where
  latch     : Byte
  counter   : Byte
  /-- the enabled flag of SCN, the armed flag of CYC -/
  enabled   : Bool
  /-- sticky until an acknowledge write -/
  pending   : Bool
  /-- reload requested (SCN) -/
  reload    : Bool
  /-- re-arm after acknowledge (CYC) -/
  rearm     : Bool
  /-- set: cycle mode; clear: scanline-approximation mode (CYC) -/
  mode      : Bool
  /-- 0 to `PRESCALER_RELOAD` (CYC) -/
  prescaler : Nat
  deriving DecidableEq, Repr

/-- `S.CH` (R38): the channel scheduler. -/
structure Sched where
  count : BitVec 3
  cur   : BitVec 3
  /-- processor cycles since the last service, below `CHANNEL_DIVISOR` -/
  div   : Nat
  deriving DecidableEq, Repr

/-- `S`: every mutable element, of all families in one record (R23). The elements of the other
families keep their load values. -/
structure Regs where
  /-- `S.mirr` (R24) -/
  mirr   : Mirr
  /-- `S.prg_ram` (R25), empty when the board has none -/
  prgRam : Mem
  /-- `S.chr_ram` (R26), empty when the board has graphics ROM -/
  chrRam : Mem
  /-- `S.SR` (R27), family SER -/
  sr     : Shift
  /-- `S.CTRL` (R28), family SER -/
  ctrl   : BitVec 5
  /-- `S.CHR0` (R29), family SER -/
  chr0   : BitVec 5
  /-- `S.CHR1` (R29), family SER -/
  chr1   : BitVec 5
  /-- `S.PRG` (R30), family SER -/
  prg    : BitVec 5
  /-- `S.BANK` (R31), family DSC -/
  bank   : Byte
  /-- `S.BSEL` (R32), family SCN -/
  bsel   : Byte
  /-- `S.BR[0..7]` (R32), family SCN -/
  br     : Vector Byte 8
  /-- `S.P16` (R33), family CYC -/
  p16    : BitVec 4
  /-- `S.P8` (R33), family CYC -/
  p8     : BitVec 5
  /-- `S.CR[0..7]` (R33, R34), families CYC and MUX -/
  cr     : Vector Byte 8
  /-- `S.MP[0..2]` (R34), family MUX -/
  mp     : Vector (BitVec 6) 3
  /-- `S.IRQ` (R35), families SCN and CYC -/
  irq    : Irq
  /-- `S.CH` (R38), family MUX -/
  ch     : Sched
  deriving DecidableEq, Repr

/-- A loaded instance (R20): the configuration with the two values INIT computes from it (R39), and
the mutable state. -/
structure Instance where
  cfg      : Cfg
  /-- `Cfg.family` (R39) -/
  family   : Family
  /-- `Cfg.conflict` (R39, R142) -/
  conflict : Bool
  /-- `S` -/
  regs     : Regs
  deriving DecidableEq, Repr

/-- The version tag of a blob (R244): this model's `BLOB_VERSION`, or any other. The spec gives
`BLOB_VERSION` no number and the model picks none (DESIGN CHOICE, log entry 7). -/
inductive BlobVersion where
  | current
  | other (n : Nat)
  deriving DecidableEq, Repr

/-- A save-state blob (R244): version, family and `S`, with which RAM regions `S` has (DEDUCED, log
entry 8). Of `regs` only the elements the family uses are the blob's state (R23, R244). -/
structure Blob where
  version   : BlobVersion
  family    : Family
  /-- the saved state has program RAM -/
  hasPrgRam : Bool
  /-- the saved state has graphics RAM -/
  hasChrRam : Bool
  regs      : Regs
  deriving DecidableEq, Repr

/-- What the host carries beside the transaction word (R91): the configuration INIT takes and the
blob RESTORE takes. The other operations read neither. -/
structure HostOperand where
  cfg  : Cfg
  blob : Blob
  deriving DecidableEq, Repr

/-- One operation the host presents: a transaction word and the operand outside it. -/
structure Request where
  word    : Word
  operand : HostOperand
  deriving DecidableEq, Repr

/-- The output of an operation (R91). -/
inductive Output where
  /-- the operation has no output -/
  | nothing
  /-- a bus read -/
  | byte (b : Byte)
  /-- QMIR -/
  | mirr (m : Mirr)
  /-- QIRQ -/
  | irq (b : Bool)
  /-- `service(k)`: a clock tick of family MUX that serves channel `k` (R211, R213) -/
  | service (k : BitVec 3)
  /-- SAVE -/
  | blob (b : Blob)
  /-- INIT or RESTORE accepted -/
  | accepted
  deriving DecidableEq, Repr

/-- A window (R121): the bus addresses `base` to `base + wsize - 1`, and the bank it shows in units
of `wsize`. -/
structure Window where
  base  : Nat
  wsize : Nat
  sel   : Nat
  deriving DecidableEq, Repr

/-- There is no fault outcome (R13): nothing raises one, so the type has no constructor. Safe: no
step can be claimed to fault. DEDUCED, log entry 11. -/
inductive Fault where
  deriving DecidableEq, Repr

/-- The reasons of a refusal (R260); the state is unchanged (R13). That a refusal ends a run is
DEDUCED, log entry 11. -/
inductive Refusal where
  /-- Raised by `exec` for an operation without a meaning (there is none left). Safe: nothing is
  claimed of it. -/
  | notModelled (mnemonic : String)
  /-- Raised by `step` on a word of the wrong form (R90), and by a meaning that is asked for an
  operation the loaded family does not have (R108). Safe: the word spells no operation. -/
  | notAnOperation
  /-- Raised by every operation but INIT on an unloaded block (R94). Safe: the spec's refusal. -/
  | notLoaded
  /-- Raised by INIT on a loaded block (R242). Safe: the spec's refusal. -/
  | alreadyLoaded
  /-- Raised by `step` on a CPU address below 0x4020 or a PPU address above 0x3FFF (R94, R95). Safe:
  the spec's refusal. -/
  | notInDomain
  /-- Raised by INIT on a mapper number outside the table of R241. Safe: the spec's refusal. -/
  | unknownMapper (n : Nat)
  /-- Raised by INIT on a configuration R240 rejects. Safe: the spec's refusal. -/
  | badConfig
  /-- Raised by RESTORE on a blob of another version, family or RAM shape (R245, R260). Safe: the spec's
  refusal. -/
  | foreignBlob
  deriving DecidableEq, Repr

/-- The whole machine. -/
structure State where
  /-- the loaded instance; `none` is the unloaded phase, in which no state exists (R21) -/
  inst     : Option Instance
  /-- the model's own (DESIGN CHOICE, log entry 3): what the host presents beside the word of the
  current operation (R91) -/
  operand  : HostOperand
  /-- the model's own (DESIGN CHOICE, log entry 3): the operations the host has still to present,
  first one first (R12) -/
  requests : List Request
  /-- the output of the last completed operation (DESIGN CHOICE, log entry 3) -/
  out      : Output
  deriving DecidableEq, Repr

/-- The registers of an unused operand: all zero, horizontal (DESIGN CHOICE, log entry 12). -/
def Regs.zero : Regs where
  mirr := .horizontal
  prgRam := []
  chrRam := []
  sr := ⟨0, 0⟩
  ctrl := 0
  chr0 := 0
  chr1 := 0
  prg := 0
  bank := 0
  bsel := 0
  br := Vector.replicate 8 0
  p16 := 0
  p8 := 0
  cr := Vector.replicate 8 0
  mp := Vector.replicate 3 0
  irq := ⟨0, 0, false, false, false, false, false, 0⟩
  ch := ⟨0, 0, 0⟩

/-- The configuration of an unused operand: INIT would refuse it (`prg_banks = 0`). DESIGN CHOICE,
log entry 12. -/
def Cfg.zero : Cfg where
  mapper := 0
  submapper := none
  prgBanks := 0
  chrBanks := 0
  battery := false
  initMirr := .horizontal
  prgRom := ⟨0, []⟩
  chrRom := ⟨0, []⟩
  hasPrgRam := false
  openBus := 0
  conflictWhenUnspecified := false
  prescalerReload := 0
  channelDivisor := 0
  prgRamInit := []
  chrRamInit := []

/-- The operand port when the host presents nothing. -/
def HostOperand.idle : HostOperand where
  cfg := Cfg.zero
  blob := ⟨.current, .fix, false, false, Regs.zero⟩

/-- The block before its first operation: unloaded (R21), nothing presented, no output yet. The
values of R43 are those INIT leaves (`loadInstance`), since INIT is the one reset event and brings
the configuration they depend on (R290). DESIGN CHOICE, log entries 1 and 12. -/
def State.reset : State where
  inst := none
  operand := HostOperand.idle
  requests := []
  out := .nothing

end Sys2Proof.Machine
end

