-- ==== Sys2Proof/WellFormed.lean ====
section
/-! DEFINITION. Which operations exist in which phase and family, and which operand fields each of
them can have: the family column and the address and data predicates of R92. -/

namespace Sys2Proof

/-- The address lies between the two bounds, both included. -/
def Addr.within (a : Addr) (lo hi : Nat) : Bool := decide (lo ≤ a.toNat) && decide (a.toNat ≤ hi)

/-- The address is even (R99). -/
def Addr.even (a : Addr) : Bool := a.toNat % 2 == 0

/-- `a2`, address bits 1:0, as a number (R93). -/
def Addr.low2 (a : Addr) : Nat := a.toNat % 4

/-- The write takes part in the serial sequence: `data[7] = 0` (R98). -/
def Byte.shifts (d : Byte) : Bool := !d.getLsbD 7

/-- ROM-space addresses that no command of the family claims (R96 to R101, R129): all of FIX, parts
of CYC and MUX, none in DSC, SER and SCN. -/
def Family.romUnclaimed (f : Family) (a : Addr) : Bool :=
  match f with
  | .fix => a.within 0x8000 0xFFFF
  | .dsc => false
  | .ser => false
  | .scn => false
  | .cyc =>
    a.within 0x9000 0xAFFF || (a.within 0xB000 0xBFFF && a.low2 != 3)
      || (a.within 0xF000 0xFFFF && a.low2 == 3)
  | .mux => a.within 0xC000 0xDFFF || a.within 0xF800 0xFFFF

/-- The operation exists in the loaded family `f` and its operand fields meet its row of R92. -/
def Instr.inFamily (f : Family) : Instr → Bool
  | .prgRd a => a.within 0x8000 0xFFFF
  | .ramRd a => a.within 0x6000 0x7FFF
  | .expRd a => a.within 0x4020 0x5FFF
  | .muxCount a _ => f == .mux && a.within 0x4800 0x4FFF
  | .ramWr a _ => a.within 0x6000 0x7FFF
  | .expWr a _ => a.within 0x4020 0x5FFF && !(f == .mux && a.within 0x4800 0x4FFF)
  | .chrRd a => a.within 0x0000 0x1FFF
  | .ntRd a => a.within 0x2000 0x3FFF
  | .chrWr a _ => a.within 0x0000 0x1FFF
  | .ntWr a _ => a.within 0x2000 0x3FFF
  | .dscBank a _ => f == .dsc && a.within 0x8000 0xFFFF
  | .serReset a d => f == .ser && a.within 0x8000 0xFFFF && !d.shifts
  | .serSh0 a d => f == .ser && a.within 0x8000 0x9FFF && d.shifts
  | .serSh1 a d => f == .ser && a.within 0xA000 0xBFFF && d.shifts
  | .serSh2 a d => f == .ser && a.within 0xC000 0xDFFF && d.shifts
  | .serSh3 a d => f == .ser && a.within 0xE000 0xFFFF && d.shifts
  | .scnBsel a _ => f == .scn && a.within 0x8000 0x9FFF && a.even
  | .scnBdat a _ => f == .scn && a.within 0x8000 0x9FFF && !a.even
  | .scnMirr a _ => f == .scn && a.within 0xA000 0xBFFF && a.even
  | .scnNop a _ => f == .scn && a.within 0xA000 0xBFFF && !a.even
  | .scnLatch a _ => f == .scn && a.within 0xC000 0xDFFF && a.even
  | .scnReload a _ => f == .scn && a.within 0xC000 0xDFFF && !a.even
  | .scnDisable a _ => f == .scn && a.within 0xE000 0xFFFF && a.even
  | .scnEnable a _ => f == .scn && a.within 0xE000 0xFFFF && !a.even
  | .cycPrg16 a _ => f == .cyc && a.within 0x8000 0x8FFF
  | .cycMirr a _ => f == .cyc && a.within 0xB000 0xBFFF && a.low2 == 3
  | .cycPrg8 a _ => f == .cyc && a.within 0xC000 0xCFFF
  | .cycChrlo a _ => f == .cyc && a.within 0xD000 0xDFFF
  | .cycChrhi a _ => f == .cyc && a.within 0xE000 0xEFFF
  | .cycLatch a _ => f == .cyc && a.within 0xF000 0xFFFF && a.low2 == 0
  | .cycCtrl a _ => f == .cyc && a.within 0xF000 0xFFFF && a.low2 == 1
  | .cycAck a _ => f == .cyc && a.within 0xF000 0xFFFF && a.low2 == 2
  | .muxChr a _ => f == .mux && a.within 0x8000 0xBFFF
  | .muxPrg0 a _ => f == .mux && a.within 0xE000 0xE7FF
  | .muxPrg1 a _ => f == .mux && a.within 0xE800 0xEFFF
  | .muxPrg2 a _ => f == .mux && a.within 0xF000 0xF7FF
  | .romNop a _ => f.romUnclaimed a
  | .clkCyc => f == .cyc
  | .clkMux => f == .mux
  | .clkNop => f == .fix || f == .dsc || f == .ser || f == .scn
  | .scanScn => f == .scn
  | .scanNop => f != .scn
  | .qmir => true
  | .qirq => true
  | .init => false
  | .save => true
  | .restore => true
  | .unload => true

/-- Well-formed in a phase: `none` is the unloaded phase, in which INIT alone exists (R21, R94). -/
def Instr.wf (phase : Option Family) (i : Instr) : Bool :=
  match phase with
  | none => i == .init
  | some f => i.inFamily f

end Sys2Proof
end

