-- ==== Sys2Proof/Machine/Ops.lean ====
section
/-! DEFINITION. The named operations over memory and registers that every meaning shares: reading
and writing a byte array, the one way an operation of a loaded instance answers, the mirroring
selector, and what INIT computes. The block takes no exception and returns from none (R266, R267:
it has no program counter, mode or vector table, and its part in interrupt entry is to hold a line
true), so there is no such operation here; what it has instead is the refusal of R260. -/

namespace Sys2Proof

/-- What an unlisted offset of a byte array reads as. A convention of the listing and no claim about
memory: an array holds any bytes, the non-zero ones listed. DESIGN CHOICE, log entry 6. -/
def Mem.unlisted : Byte := 0

/-- `MemRead(space, off, 1)` (R15). -/
def Mem.read : Mem → Nat → Byte
  | [], _ => Mem.unlisted
  | (k, c) :: t, off => if k = off then c else Mem.read t off

/-- `MemWrite(space, off, 1, v)` (R15), keeping the canonical form. -/
def Mem.write : Mem → Nat → Byte → Mem
  | [], off, v => if v = Mem.unlisted then [] else [(off, v)]
  | (k, c) :: t, off, v =>
    if off < k then (if v = Mem.unlisted then (k, c) :: t else (off, v) :: (k, c) :: t)
    else if off = k then (if v = Mem.unlisted then t else (off, v) :: t)
    else (k, c) :: Mem.write t off v

/-- Offsets from `lo` on, strictly rising and below `size`, and no byte listed that an unlisted
offset reads as. -/
def Mem.listedFrom (lo size : Nat) : Mem → Bool
  | [] => true
  | (k, c) :: t =>
    decide (lo ≤ k) && decide (k < size) && c != Mem.unlisted && Mem.listedFrom (k + 1) size t

/-- The canonical listing of an array of `size` bytes. -/
def Mem.wf (size : Nat) (m : Mem) : Bool := Mem.listedFrom 0 size m

/-- A byte array of exactly `size` bytes. -/
def Image.hasSize (r : Image) (size : Nat) : Bool := r.size == size && Mem.wf size r.cells

namespace Machine

/-- 8192: the size of both RAM regions (R25, R26). -/
def ramSize : Nat := 8192

/-! ### Configuration (R120, R141, R142, R241) -/

/-- `family_of(mapper)` (R241). -/
def familyOf : Nat → Option Family
  | 0 => some .fix
  | 1 => some .ser
  | 2 => some .dsc
  | 4 => some .scn
  | 19 => some .mux
  | 24 => some .cyc
  | _ => none

/-- The resolved policy of a conflict-capable family (R142). -/
def submapperPolicy (c : Cfg) : Bool :=
  match c.submapper with
  | some 1 => false
  | some 2 => true
  | _ => c.conflictWhenUnspecified

/-- `Cfg.conflict` (R141, R142): only DSC is conflict-capable. -/
def conflictPolicy (f : Family) (c : Cfg) : Bool :=
  match f with
  | .dsc => submapperPolicy c
  | .fix | .ser | .scn | .cyc | .mux => false

/-- `size(PRG)` (R120). -/
def prgSize (c : Cfg) : Nat := c.prgBanks * 16384

/-- The board has graphics RAM instead of graphics ROM (R26). -/
def hasChrRam (c : Cfg) : Bool := c.chrBanks == 0

/-- `size(CHR)` (R120). -/
def chrSize (c : Cfg) : Nat := if hasChrRam c then ramSize else c.chrBanks * 8192

/-- The configuration passes the checks of R240 that answer `BadConfig`. The RAM contents are arrays
of 8192 bytes (R9). That every array is listed in canonical form is DESIGN CHOICE, log entry 4. -/
def cfgOk (c : Cfg) : Bool :=
  decide (1 ≤ c.prgBanks)
    && c.prgRom.hasSize (c.prgBanks * 16384)
    && c.chrRom.hasSize (c.chrBanks * 8192)
    && Mem.wf ramSize c.prgRamInit
    && Mem.wf ramSize c.chrRamInit
    && decide (1 ≤ c.prescalerReload)
    && decide (1 ≤ c.channelDivisor)

/-! ### Values after load (R43) -/

/-- `menc` (R43): the `CTRL[1:0]` code of the initial mirroring. -/
def menc : Mirr → BitVec 5
  | .singleLow => 0
  | .singleHigh => 1
  | .vertical => 2
  | .horizontal => 3
  | .fourScreen => 0

/-- Every element of `S` after INIT (R43). -/
def loadRegs (c : Cfg) : Regs where
  mirr := c.initMirr
  prgRam := if c.hasPrgRam then c.prgRamInit else []
  chrRam := if hasChrRam c then c.chrRamInit else []
  sr := ⟨0, 0⟩
  ctrl := 0x0C ||| menc c.initMirr
  chr0 := 0
  chr1 := 0
  prg := 0
  bank := 0
  bsel := 0
  br := Vector.replicate 8 0
  p16 := 0
  p8 := 0
  cr := Vector.replicate 8 0
  mp := Vector.replicate 3 0
  irq :=
    { latch := 0, counter := 0, enabled := false, pending := false, reload := false,
      rearm := false, mode := false, prescaler := c.prescalerReload }
  ch := ⟨0, 0, 0⟩

/-- The instance INIT constructs for family `f` (R240). -/
def loadInstance (f : Family) (c : Cfg) : Instance where
  cfg := c
  family := f
  conflict := conflictPolicy f c
  regs := loadRegs c

/-! ### How an operation answers -/

/-- Change the mutable state; the configuration stays (R8, R39). -/
def Instance.update (m : Instance) (f : Regs → Regs) : Instance := { m with regs := f m.regs }

/-- A completed operation: the instance it leaves and its output. -/
def State.answer (s : State) (m : Instance) (o : Output) : State :=
  { s with inst := some m, out := o }

/-- The phase decode sees (R94). -/
def State.phase (s : State) : Option Family := s.inst.map Instance.family

/-- What a step answers. -/
abbrev Result := Host.Outcome State Fault Refusal

/-- An operation of a loaded instance (R13, R94): refused when nothing is loaded or the loaded
family's decoder never yields it (DESIGN CHOICE, log entry 10), else it completes with what `k`
gives. -/
def perform (i : Instr) (s : State) (k : Instance → Instance × Output) : Result :=
  match s.inst with
  | none => .refused .notLoaded
  | some m =>
    if i.inFamily m.family then .next (s.answer (k m).1 (k m).2)
    else .refused .notAnOperation

/-- An operation with no output that changes the mutable state by `f`. -/
def command (i : Instr) (s : State) (f : Instance → Regs → Regs) : Result :=
  perform i s fun m => (m.update (f m), .nothing)

/-- An operation that reads and changes nothing (R69). -/
def query (i : Instr) (s : State) (f : Instance → Output) : Result :=
  perform i s fun m => (m, f m)

/-- A decode error as the refusal of R260. -/
def refusalOf : DecodeError → Refusal
  | .notAnOperation => .notAnOperation
  | .notLoaded => .notLoaded
  | .alreadyLoaded => .alreadyLoaded
  | .notInDomain => .notInDomain

/-- The state in which the host presents its next request: the request is taken off the list and
its operand stands beside the word. -/
def State.takeRequest (s : State) (r : Request) (rest : List Request) : State :=
  { s with operand := r.operand, requests := rest }

/-! ### The mirroring selector (R225 to R228) -/

/-- The numeric code of a mode (R24), the value QMIR carries. -/
def mirrCode : Mirr → BitVec 3
  | .horizontal => 0
  | .vertical => 1
  | .singleLow => 2
  | .singleHigh => 3
  | .fourScreen => 4

/-- `set_mirr(m)` (R226): the one way a write changes the mode; a four-screen cartridge ignores it
(R227). -/
def setMirr (m : Instance) (v : Mirr) (r : Regs) : Regs :=
  if m.cfg.initMirr = .fourScreen then r else { r with mirr := v }

/-- `nt_page(mode, a)` (R228): which 1 KiB page serves a nametable address. -/
def ntPage (mode : Mirr) (a : Addr) : Nat :=
  match mode with
  | .horizontal => (a.extractLsb' 11 1).toNat
  | .vertical => (a.extractLsb' 10 1).toNat
  | .singleLow => 0
  | .singleHigh => 1
  | .fourScreen => (a.extractLsb' 10 2).toNat

/-! ### Save blobs (R243, R244) -/

/-- The blob SAVE returns (R243). -/
def blobOf (m : Instance) : Blob where
  version := .current
  family := m.family
  hasPrgRam := m.cfg.hasPrgRam
  hasChrRam := hasChrRam m.cfg
  regs := m.regs

/-- The RAM region is one of this shape: 8192 bytes in canonical form (DESIGN CHOICE, log entry 4),
or nothing. -/
def ramShape (present : Bool) (r : Mem) : Bool := if present then Mem.wf ramSize r else r == []

end Machine
end Sys2Proof
end

