-- ==== Sys2Proof/Machine/Operands.lean ====
section
/-! DEFINITION. The operand forms: the fields of address and data (R93, R107), the window tables of
every family, the translation of a bus address to a physical offset (R120 to R123), and the byte a
write delivers after bus-conflict resolution (R140). -/

namespace Sys2Proof.Machine

/-! ### Translation (R120 to R122) -/

/-- `nbanks(X, wsize) = size(X) div wsize` (R120). -/
def nbanks (size wsize : Nat) : Nat := size / wsize

/-- FIRST (R122). -/
def selFirst : Nat := 0

/-- LAST (R122). -/
def selLast (size wsize : Nat) : Nat := nbanks size wsize - 1

/-- LAST-1 (R122). -/
def selLast1 (size wsize : Nat) : Nat := (nbanks size wsize - 2) % nbanks size wsize

/-- The window covers the bus address (R121). -/
def Window.covers (w : Window) (a : Nat) : Bool := decide (w.base ≤ a) && decide (a < w.base + w.wsize)

/-- `translate(win, addr)` on a space of `size` bytes (R121). -/
def translate (size : Nat) (w : Window) (a : Nat) : Nat :=
  (w.sel % nbanks size w.wsize) * w.wsize + (a - w.base) % w.wsize

/-- The offset a window table gives a bus address: that of the window that covers it. -/
def lookup (size : Nat) (t : List Window) (a : Nat) : Option Nat :=
  (t.find? fun w => w.covers a).map fun w => translate size w a

/-! ### Program window tables -/

/-- FIX (R123). -/
def prgTableFix (m : Instance) : List Window :=
  [⟨0x8000, 16384, selFirst⟩, ⟨0xC000, 16384, selLast (prgSize m.cfg) 16384⟩]

/-- DSC (R145). -/
def prgTableDsc (m : Instance) : List Window :=
  [⟨0x8000, 16384, m.regs.bank.toNat⟩, ⟨0xC000, 16384, selLast (prgSize m.cfg) 16384⟩]

/-- P = `CTRL[3:2]` (R28). -/
def serP (r : Regs) : Nat := (r.ctrl.extractLsb' 2 2).toNat

/-- C = `CTRL[4]` (R28). -/
def serC (r : Regs) : Bool := r.ctrl.getLsbD 4

/-- B = `PRG[3:0]` (R30). -/
def serB (r : Regs) : BitVec 4 := r.prg.extractLsb' 0 4

/-- SER (R158). -/
def prgTableSer (m : Instance) : List Window :=
  match serP m.regs with
  | 2 => [⟨0x8000, 16384, selFirst⟩, ⟨0xC000, 16384, (serB m.regs).toNat⟩]
  | 3 => [⟨0x8000, 16384, (serB m.regs).toNat⟩, ⟨0xC000, 16384, selLast (prgSize m.cfg) 16384⟩]
  | _ => [⟨0x8000, 16384, (serB m.regs &&& 0xE).toNat⟩, ⟨0xC000, 16384, (serB m.regs ||| 1).toNat⟩]

/-- PM = `BSEL[6]` (R32). -/
def scnPm (r : Regs) : Bool := r.bsel.getLsbD 6

/-- CM = `BSEL[7]` (R32). -/
def scnCm (r : Regs) : Bool := r.bsel.getLsbD 7

/-- SCN (R181). -/
def prgTableScn (m : Instance) : List Window :=
  let last1 := selLast1 (prgSize m.cfg) 8192
  let swap := m.regs.br[6].toNat
  [⟨0x8000, 8192, if scnPm m.regs then last1 else swap⟩,
   ⟨0xA000, 8192, m.regs.br[7].toNat⟩,
   ⟨0xC000, 8192, if scnPm m.regs then swap else last1⟩,
   ⟨0xE000, 8192, selLast (prgSize m.cfg) 8192⟩]

/-- CYC (R201). -/
def prgTableCyc (m : Instance) : List Window :=
  [⟨0x8000, 16384, m.regs.p16.toNat⟩, ⟨0xC000, 8192, m.regs.p8.toNat⟩,
   ⟨0xE000, 8192, selLast (prgSize m.cfg) 8192⟩]

/-- MUX (R218). -/
def prgTableMux (m : Instance) : List Window :=
  [⟨0x8000, 8192, m.regs.mp[0].toNat⟩, ⟨0xA000, 8192, m.regs.mp[1].toNat⟩,
   ⟨0xC000, 8192, m.regs.mp[2].toNat⟩, ⟨0xE000, 8192, selLast (prgSize m.cfg) 8192⟩]

/-- The program window table of the loaded family (R123). -/
def prgTable (m : Instance) : List Window :=
  match m.family with
  | .fix => prgTableFix m
  | .dsc => prgTableDsc m
  | .ser => prgTableSer m
  | .scn => prgTableScn m
  | .cyc => prgTableCyc m
  | .mux => prgTableMux m

/-! ### Graphics window tables -/

/-- FIX and DSC (R123). -/
def chrTableFixed : List Window := [⟨0x0000, 8192, selFirst⟩]

/-- SER (R159). -/
def chrTableSer (m : Instance) : List Window :=
  if serC m.regs then
    [⟨0x0000, 4096, m.regs.chr0.toNat⟩, ⟨0x1000, 4096, m.regs.chr1.toNat⟩]
  else
    [⟨0x0000, 4096, (m.regs.chr0 &&& 0x1E).toNat⟩, ⟨0x1000, 4096, (m.regs.chr0 ||| 1).toNat⟩]

/-- Eight 1 KiB windows, window `k` at `0x0400 * k`, with these selectors in order. -/
def windows1K (s0 s1 s2 s3 s4 s5 s6 s7 : Byte) : List Window :=
  [⟨0x0000, 1024, s0.toNat⟩, ⟨0x0400, 1024, s1.toNat⟩, ⟨0x0800, 1024, s2.toNat⟩,
   ⟨0x0C00, 1024, s3.toNat⟩, ⟨0x1000, 1024, s4.toNat⟩, ⟨0x1400, 1024, s5.toNat⟩,
   ⟨0x1800, 1024, s6.toNat⟩, ⟨0x1C00, 1024, s7.toNat⟩]

/-- SCN (R182): `BR[0]` and `BR[1]` drive aligned pairs. -/
def chrTableScn (m : Instance) : List Window :=
  let b := m.regs.br
  if scnCm m.regs then
    windows1K b[2] b[3] b[4] b[5] (b[0] &&& 0xFE) (b[0] ||| 1) (b[1] &&& 0xFE) (b[1] ||| 1)
  else
    windows1K (b[0] &&& 0xFE) (b[0] ||| 1) (b[1] &&& 0xFE) (b[1] ||| 1) b[2] b[3] b[4] b[5]

/-- CYC and MUX (R201, R218): window `k` shows `CR[k]`. -/
def chrTableCr (m : Instance) : List Window :=
  let r := m.regs.cr
  windows1K r[0] r[1] r[2] r[3] r[4] r[5] r[6] r[7]

/-- The graphics window table of the loaded family (R123). -/
def chrTable (m : Instance) : List Window :=
  match m.family with
  | .fix => chrTableFixed
  | .dsc => chrTableFixed
  | .ser => chrTableSer m
  | .scn => chrTableScn m
  | .cyc => chrTableCr m
  | .mux => chrTableCr m

/-! ### The byte behind a bus address -/

/-- Offset into `PRGROM`; every address of 0x8000 to 0xFFFF has one (R123). -/
def prgOffset (m : Instance) (a : Addr) : Option Nat := lookup (prgSize m.cfg) (prgTable m) a.toNat

/-- Offset into `CHRROM` or `CHRRAM`; every address of 0x0000 to 0x1FFF has one (R123). -/
def chrOffset (m : Instance) (a : Addr) : Option Nat := lookup (chrSize m.cfg) (chrTable m) a.toNat

/-- The byte of `PRGROM` behind a program-ROM address (R124, R143). Outside every window nothing
drives the bus; no address of 0x8000 to 0xFFFF is there (DEDUCED, log entry 13). -/
def prgByte (m : Instance) (a : Addr) : Byte :=
  match prgOffset m a with
  | some off => m.cfg.prgRom.cells.read off
  | none => m.cfg.openBus

/-- The graphics memory of the board: `CHRROM`, or `CHRRAM` when there are no graphics banks (R130). -/
def chrMem (m : Instance) : Mem := if hasChrRam m.cfg then m.regs.chrRam else m.cfg.chrRom.cells

/-- The byte of `CHRROM` or `CHRRAM` behind a pattern address (R130). -/
def chrByte (m : Instance) (a : Addr) : Byte :=
  match chrOffset m a with
  | some off => (chrMem m).read off
  | none => m.cfg.openBus

/-- Offset into `PRGRAM` (R125, R127). -/
def ramOffset (a : Addr) : Nat := a.toNat - 0x6000

/-! ### What a write delivers -/

/-- `resolve(addr, data)` (R140): the effective byte of a write at 0x8000 or above. -/
def resolve (m : Instance) (a : Addr) (d : Byte) : Byte :=
  if m.conflict then d &&& prgByte m a else d

/-- `bit = data[0]` (R93), as the value shifted into the accumulator (R152). -/
def serialBit (d : Byte) : BitVec 5 := (d.extractLsb' 0 1).setWidth 5

/-- `CR` index of CYC.CHRLO and CYC.CHRHI: `a2` and `4 + a2` (R93). -/
def cycIndex (high : Bool) (a : Addr) : BitVec 3 := (if high then 1#1 else 0#1) ++ a.a2

/-- `CR` index of MUX.CHR: `n = addr[13:11]` (R93). -/
def muxIndex (a : Addr) : BitVec 3 := a.extractLsb' 11 3

/-- Element `k` of an eight-element register file assigned (R15). -/
def setElem (v : Vector Byte 8) (k : BitVec 3) (b : Byte) : Vector Byte 8 := v.set k.toNat b k.isLt

/-- The mode `CTRL[1:0]` names (R154, R226). -/
def serMirr (ctrl : BitVec 5) : Mirr :=
  match (ctrl.extractLsb' 0 2).toNat with
  | 0 => .singleLow
  | 1 => .singleHigh
  | 2 => .vertical
  | _ => .horizontal

/-- The mode `data[0]` names in SCN (R179, R226). -/
def scnMirrMode (d : Byte) : Mirr := if d.getLsbD 0 then .horizontal else .vertical

/-- The mode `data[3:2]` names in CYC (R202, R226). -/
def cycMirrMode (d : Byte) : Mirr :=
  match (d.extractLsb' 2 2).toNat with
  | 0 => .vertical
  | 1 => .horizontal
  | 2 => .singleLow
  | _ => .singleHigh

end Sys2Proof.Machine
end

