-- ==== Sys2Proof/Machine/Flags.lean ====
section
/-! DEFINITION. The flags (R37): the program-RAM gate and the interrupt counter record with its
`enabled`, `pending`, `reload`, `rearm` and `mode` bits; the two counters that set `pending`, the
writes that clear it, and the channel scheduler that shares the cycle clock. -/

namespace Sys2Proof.Machine

/-- `ram_enabled(S)` (R134): SER gates program RAM with `PRG[4]` (R30, R160). -/
def ramEnabled (m : Instance) : Bool :=
  match m.family with
  | .ser => !m.regs.prg.getLsbD 4
  | .fix | .dsc | .scn | .cyc | .mux => true

/-- Program RAM answers: the board has it and the gate is open (R125, R127). -/
def ramAnswers (m : Instance) : Bool := m.cfg.hasPrgRam && ramEnabled m

/-! ### The scanline counter (R170 to R174) -/

/-- First half of a strobe: reload from the latch or decrement (R170). -/
def Irq.reloadOrDecrement (q : Irq) : Irq :=
  if q.counter = 0 ∨ q.reload = true then { q with counter := q.latch, reload := false }
  else { q with counter := q.counter - 1 }

/-- Second half of a strobe: the test on the value just written (R170). -/
def Irq.raiseAtZero (q : Irq) : Irq :=
  if q.counter = 0 ∧ q.enabled = true then { q with pending := true } else q

/-- One scanline notification (R170). -/
def Irq.strobe (q : Irq) : Irq := q.reloadOrDecrement.raiseAtZero

/-- The latch write of both families (R171, R192). -/
def Irq.setLatch (q : Irq) (v : Byte) : Irq := { q with latch := v }

/-- The reload request (R172). -/
def Irq.requestReload (q : Irq) : Irq := { q with reload := true }

/-- Disable and acknowledge (R173). -/
def Irq.disable (q : Irq) : Irq := { q with enabled := false, pending := false }

/-- Enable (R174). -/
def Irq.enable (q : Irq) : Irq := { q with enabled := true }

/-! ### The cycle counter (R190 to R194) -/

/-- `count_up()` (R191): an overflow reloads always and raises only when armed. -/
def Irq.countUp (q : Irq) : Irq :=
  if q.counter = 0xFF then { q with counter := q.latch, pending := q.pending || q.enabled }
  else { q with counter := q.counter + 1 }

/-- One processor-cycle tick (R190); `reload` is `PRESCALER_RELOAD`. -/
def Irq.tick (reload : Nat) (q : Irq) : Irq :=
  if q.mode = true then q.countUp
  else if q.prescaler ≤ 1 then { q with prescaler := reload }.countUp
  else { q with prescaler := q.prescaler - 1 }

/-- The control write (R193): three flags, and counter and prescaler when it arms. -/
def Irq.control (reload : Nat) (q : Irq) (v : Byte) : Irq :=
  let q := { q with rearm := v.getLsbD 0, enabled := v.getLsbD 1, mode := v.getLsbD 2 }
  if v.getLsbD 1 then { q with counter := q.latch, prescaler := reload } else q

/-- The acknowledge write (R194). -/
def Irq.acknowledge (q : Irq) : Irq := { q with pending := false, enabled := q.rearm }

/-! ### The counter record in a blob (R35, R244) -/

/-- The prescaler after RESTORE: the saved one, or a free value of its range where it lies above
`PRESCALER_RELOAD` (R35, R41 d). DESIGN CHOICE, log entry 17. -/
def restoredPrescaler (reload saved : Nat) : Nat :=
  if saved ≤ reload then saved else Config.freePrescaler reload saved % (reload + 1)

/-- The counter record after RESTORE: SCN and CYC take the elements they use (the table of R35), and
the other families, in which the record is constant, take none (R23, R244). -/
def Irq.restore (f : Family) (reload : Nat) (saved old : Irq) : Irq :=
  match f with
  | .scn =>
    { old with
      latch := saved.latch, counter := saved.counter, enabled := saved.enabled,
      pending := saved.pending, reload := saved.reload }
  | .cyc =>
    { saved with reload := old.reload, prescaler := restoredPrescaler reload saved.prescaler }
  | .fix | .ser | .dsc | .mux => old

/-! ### The channel scheduler (R210, R211) -/

/-- The count write (R210): the cycle restarts at the highest active index. -/
def Sched.setCount (c : Sched) (n : BitVec 3) : Sched := { c with count := n, cur := n }

/-- The tick is the one that serves a channel (R211). -/
def Sched.serves (divisor : Nat) (c : Sched) : Bool := decide (c.div + 1 = divisor)

/-- One processor-cycle tick (R211): the scheduler after it. -/
def Sched.tick (divisor : Nat) (c : Sched) : Sched :=
  if c.serves divisor then
    { c with div := 0, cur := if c.cur = 0 then c.count else c.cur - 1 }
  else { c with div := c.div + 1 }

/-- One processor-cycle tick (R211): its output. -/
def Sched.emits (divisor : Nat) (c : Sched) : Output :=
  if c.serves divisor then .service c.cur else .nothing

/-- The scheduler after RESTORE: the saved one, with a free value of its range for a divider not below
`CHANNEL_DIVISOR` (R38, R41 c). DESIGN CHOICE, log entry 17. -/
def Sched.restore (divisor : Nat) (saved : Sched) : Sched :=
  { saved with
    div := if saved.div < divisor then saved.div else Config.freeDivider divisor saved.div % divisor }

end Sys2Proof.Machine
end

