-- ==== Sys2Proof/Machine/Bus.lean ====
section
/-! DEFINITION. The meanings of the bus operations every family shares (40_bus_access.md): reads and writes of the two
address spaces that reach no register. -/

namespace Sys2Proof.Machine

/-- PRG.RD (R124): the `PRGROM` byte behind the window that covers `a`. -/
def execPrgRd (a : Addr) (s : State) : Result :=
  query (.prgRd a) s fun m => .byte (prgByte m a)

/-- RAM.RD (R125): the `PRGRAM` byte, or `OPEN_BUS` when program RAM is absent or gated off. -/
def execRamRd (a : Addr) (s : State) : Result :=
  query (.ramRd a) s fun m =>
    .byte (if ramAnswers m then m.regs.prgRam.read (ramOffset a) else m.cfg.openBus)

/-- EXP.RD (R126): nothing drives the bus here. -/
def execExpRd (a : Addr) (s : State) : Result :=
  query (.expRd a) s fun m => .byte m.cfg.openBus

/-- RAM.WR (R127): stored when program RAM answers, else ignored; no conflict resolution below 0x8000. -/
def execRamWr (a : Addr) (d : Byte) (s : State) : Result :=
  command (.ramWr a d) s fun m r =>
    if ramAnswers m then { r with prgRam := r.prgRam.write (ramOffset a) d } else r

/-- EXP.WR (R128): no effect. -/
def execExpWr (a : Addr) (d : Byte) (s : State) : Result :=
  command (.expWr a d) s fun _ r => r

/-- ROM.NOP (R129): no effect; ROM is not written. -/
def execRomNop (a : Addr) (d : Byte) (s : State) : Result :=
  command (.romNop a d) s fun _ r => r

/-- CHR.RD (R130): the `CHRROM` or `CHRRAM` byte behind the window that covers `a`. -/
def execChrRd (a : Addr) (s : State) : Result :=
  query (.chrRd a) s fun m => .byte (chrByte m a)

/-- CHR.WR (R131): stored through the windows when the board has graphics RAM, else discarded. -/
def execChrWr (a : Addr) (d : Byte) (s : State) : Result :=
  command (.chrWr a d) s fun m r =>
    match chrOffset m a with
    | some off => if hasChrRam m.cfg then { r with chrRam := r.chrRam.write off d } else r
    | none => r

/-- NT.RD (R132): the block does not drive the bus here. -/
def execNtRd (a : Addr) (s : State) : Result :=
  query (.ntRd a) s fun m => .byte m.cfg.openBus

/-- NT.WR (R133): no effect. -/
def execNtWr (a : Addr) (d : Byte) (s : State) : Result :=
  command (.ntWr a d) s fun _ r => r

end Sys2Proof.Machine
end

