-- ==== Sys2Proof/Machine/Cyc.lean ====
section
/-! DEFINITION. The meanings of family CYC (44_cycle_irq.md): the cycle tick, the counter writes and the bank registers;
and the tick of the families without a cycle clock. -/

namespace Sys2Proof.Machine

/-- CYC.PRG16 (R198): data bits 3:0. -/
def execCycPrg16 (a : Addr) (d : Byte) (s : State) : Result :=
  command (.cycPrg16 a d) s fun m r => { r with p16 := (resolve m a d).extractLsb' 0 4 }

/-- CYC.MIRR (R202): data bits 3:2. -/
def execCycMirr (a : Addr) (d : Byte) (s : State) : Result :=
  command (.cycMirr a d) s fun m r => setMirr m (cycMirrMode (resolve m a d)) r

/-- CYC.PRG8 (R199): data bits 4:0. -/
def execCycPrg8 (a : Addr) (d : Byte) (s : State) : Result :=
  command (.cycPrg8 a d) s fun m r => { r with p8 := (resolve m a d).extractLsb' 0 5 }

/-- CYC.CHRLO (R200): `CR[a2]`. -/
def execCycChrlo (a : Addr) (d : Byte) (s : State) : Result :=
  command (.cycChrlo a d) s fun m r => { r with cr := setElem r.cr (cycIndex false a) (resolve m a d) }

/-- CYC.CHRHI (R203): `CR[4 + a2]`. -/
def execCycChrhi (a : Addr) (d : Byte) (s : State) : Result :=
  command (.cycChrhi a d) s fun m r => { r with cr := setElem r.cr (cycIndex true a) (resolve m a d) }

/-- CYC.LATCH (R192): the latch; the counter is not touched. -/
def execCycLatch (a : Addr) (d : Byte) (s : State) : Result :=
  command (.cycLatch a d) s fun m r => { r with irq := r.irq.setLatch (resolve m a d) }

/-- CYC.CTRL (R193): re-arm, armed and mode; arming copies the latch and resets the prescaler. -/
def execCycCtrl (a : Addr) (d : Byte) (s : State) : Result :=
  command (.cycCtrl a d) s fun m r =>
    { r with irq := r.irq.control m.cfg.prescalerReload (resolve m a d) }

/-- CYC.ACK (R194): clear pending and copy re-arm into armed; the data byte is ignored. -/
def execCycAck (a : Addr) (d : Byte) (s : State) : Result :=
  command (.cycAck a d) s fun _ r => { r with irq := r.irq.acknowledge }

/-- CLK.CYC (R190): count in cycle mode, else step the prescaler and count at its end. -/
def execClkCyc (s : State) : Result :=
  command .clkCyc s fun m r => { r with irq := r.irq.tick m.cfg.prescalerReload }

/-- CLK.NOP (R197): no effect, no output. -/
def execClkNop (s : State) : Result :=
  command .clkNop s fun _ r => r

end Sys2Proof.Machine
end

