-- ==== Sys2Proof/Machine/Dsc.lean ====
section
/-! DEFINITION. The meanings of family DSC (41_bus_conflict.md): the one bank register behind the bus-conflict arbiter. -/

namespace Sys2Proof.Machine

/-- DSC.BANK (R144): the effective byte, all eight bits. The ROM byte comes through the mapping before the
write (R143), so with conflicts on a second identical write at 0x8000 to 0xBFFF reads the bank the first one
selected and can change the register again. R70's derived clause calls every such write idempotent; the model
follows R143 and R144 (DESIGN CHOICE, log entry 16). -/
def execDscBank (a : Addr) (d : Byte) (s : State) : Result :=
  command (.dscBank a d) s fun m r => { r with bank := resolve m a d }

end Sys2Proof.Machine
end

