-- ==== Sys2Proof/Machine/HostOps.lean ====
section
/-! DEFINITION. The meanings of the host operations (47_host_operations.md): load, save, restore, unload. -/

namespace Sys2Proof.Machine

/-- INIT (R240): construct the instance from the configuration presented beside the word, after the checks in
their order. -/
def execInit (s : State) : Result :=
  match s.inst with
  | some _ => .refused .alreadyLoaded
  | none =>
    match familyOf s.operand.cfg.mapper with
    | none => .refused (.unknownMapper s.operand.cfg.mapper)
    | some f =>
      if cfgOk s.operand.cfg then .next (s.answer (loadInstance f s.operand.cfg) .accepted)
      else .refused .badConfig

/-- SAVE (R243): the whole state as a blob. -/
def execSave (s : State) : Result :=
  query .save s fun m => .blob (blobOf m)

/-- The blob is one RESTORE accepts (R245, R260): this version, this family, these RAM regions. That each
RAM region is listed in canonical form is DESIGN CHOICE, log entry 4. -/
def blobFits (m : Instance) (b : Blob) : Bool :=
  b.version == .current
    && b.family == m.family
    && b.hasPrgRam == m.cfg.hasPrgRam
    && b.hasChrRam == hasChrRam m.cfg
    && ramShape m.cfg.hasPrgRam b.regs.prgRam
    && ramShape (hasChrRam m.cfg) b.regs.chrRam

/-- The mode after RESTORE of a blob that holds `b`: that of the blob, except where a rule gives this cartridge
another one. A four-screen cartridge stays four-screen (R227), a fixed mode is the initial one (R225), and in
SER the mode is the one `CTRL` names (R41 g). For a blob this cartridge saved these are its own mode. DEDUCED, log
entry 5. -/
def restoredMirr (m : Instance) (b : Regs) : Mirr :=
  if m.cfg.initMirr = .fourScreen then .fourScreen
  else
    match m.family with
    | .fix | .dsc | .mux => m.cfg.initMirr
    | .ser => serMirr b.ctrl
    | .scn | .cyc => b.mirr

/-- `S <- blob.S` (R245), where `b` holds the state of the blob and `r` that of the instance. `S` is the elements
every family has and those the loaded one uses (R244); the others in the record are no part of it and stay
(R23, R35). -/
def restoreRegs (m : Instance) (b r : Regs) : Regs :=
  let r := { r with mirr := restoredMirr m b, prgRam := b.prgRam, chrRam := b.chrRam }
  match m.family with
  | .fix => r
  | .dsc => { r with bank := b.bank }
  | .ser => { r with sr := b.sr, ctrl := b.ctrl, chr0 := b.chr0, chr1 := b.chr1, prg := b.prg }
  | .scn =>
    { r with bsel := b.bsel, br := b.br, irq := Irq.restore .scn m.cfg.prescalerReload b.irq r.irq }
  | .cyc =>
    { r with
      p16 := b.p16, p8 := b.p8, cr := b.cr
      irq := Irq.restore .cyc m.cfg.prescalerReload b.irq r.irq }
  | .mux => { r with mp := b.mp, cr := b.cr, ch := Sched.restore m.cfg.channelDivisor b.ch }

/-- RESTORE (R245): the state of the blob presented beside the word, or the refusal of a foreign one. -/
def execRestore (s : State) : Result :=
  match s.inst with
  | none => .refused .notLoaded
  | some m =>
    if blobFits m s.operand.blob then
      .next (s.answer (m.update (restoreRegs m s.operand.blob.regs)) .accepted)
    else .refused .foreignBlob

/-- UNLOAD (R246): the instance ceases to exist. -/
def execUnload (s : State) : Result :=
  match s.inst with
  | none => .refused .notLoaded
  | some _ => .next { s with inst := none, out := .nothing }

end Sys2Proof.Machine
end

