-- ==== Sys2Proof/Machine/Mux.lean ====
section
/-! DEFINITION. The meanings of family MUX (45_channel_mux.md): the channel scheduler and the bank registers. -/

namespace Sys2Proof.Machine

/-- MUX.COUNT (R210): data bits 6:4, and the cycle restarts; no conflict resolution below 0x8000. -/
def execMuxCount (a : Addr) (d : Byte) (s : State) : Result :=
  command (.muxCount a d) s fun _ r => { r with ch := r.ch.setCount (d.extractLsb' 4 3) }

/-- MUX.CHR (R214): `CR[addr[13:11]]`. -/
def execMuxChr (a : Addr) (d : Byte) (s : State) : Result :=
  command (.muxChr a d) s fun m r => { r with cr := setElem r.cr (muxIndex a) (resolve m a d) }

/-- MUX.PRG0 (R215): data bits 5:0. -/
def execMuxPrg0 (a : Addr) (d : Byte) (s : State) : Result :=
  command (.muxPrg0 a d) s fun m r => { r with mp := r.mp.set 0 ((resolve m a d).extractLsb' 0 6) }

/-- MUX.PRG1 (R216): data bits 5:0. -/
def execMuxPrg1 (a : Addr) (d : Byte) (s : State) : Result :=
  command (.muxPrg1 a d) s fun m r => { r with mp := r.mp.set 1 ((resolve m a d).extractLsb' 0 6) }

/-- MUX.PRG2 (R217): data bits 5:0. -/
def execMuxPrg2 (a : Addr) (d : Byte) (s : State) : Result :=
  command (.muxPrg2 a d) s fun m r => { r with mp := r.mp.set 2 ((resolve m a d).extractLsb' 0 6) }

/-- CLK.MUX (R211): count the divider; at its end serve one channel and step down. -/
def execClkMux (s : State) : Result :=
  perform .clkMux s fun m =>
    (m.update fun r => { r with ch := r.ch.tick m.cfg.channelDivisor },
     m.regs.ch.emits m.cfg.channelDivisor)

end Sys2Proof.Machine
end

