-- ==== Sys2Proof/Machine/Query.lean ====
section
/-! DEFINITION. The meanings of the two queries (46_mirroring_and_queries.md). -/

namespace Sys2Proof.Machine

/-- QMIR (R230): the mode; nothing changes. -/
def execQmir (s : State) : Result :=
  query .qmir s fun m => .mirr m.regs.mirr

/-- QIRQ (R231): the pending flag as a level, not gated by enabled; polling does not acknowledge. -/
def execQirq (s : State) : Result :=
  query .qirq s fun m => .irq m.regs.irq.pending

end Sys2Proof.Machine
end

