-- ==== Sys2Proof/Machine/Scn.lean ====
section
/-! DEFINITION. The meanings of family SCN (43_scanline_irq.md): the scanline strobe, the counter writes and the bank
registers; and the strobe of the families without a scanline counter. -/

namespace Sys2Proof.Machine

/-- SCN.BSEL (R177): target, PM and CM; bits 5:3 are stored without effect. -/
def execScnBsel (a : Addr) (d : Byte) (s : State) : Result :=
  command (.scnBsel a d) s fun m r => { r with bsel := resolve m a d }

/-- SCN.BDAT (R178): the bank register `BSEL[2:0]` names. -/
def execScnBdat (a : Addr) (d : Byte) (s : State) : Result :=
  command (.scnBdat a d) s fun m r =>
    { r with br := setElem r.br (r.bsel.extractLsb' 0 3) (resolve m a d) }

/-- SCN.MIRR (R179): bit 0: vertical or horizontal. -/
def execScnMirr (a : Addr) (d : Byte) (s : State) : Result :=
  command (.scnMirr a d) s fun m r => setMirr m (scnMirrMode (resolve m a d)) r

/-- SCN.NOP (R180): no effect. -/
def execScnNop (a : Addr) (d : Byte) (s : State) : Result :=
  command (.scnNop a d) s fun _ r => r

/-- SCN.LATCH (R171): the latch; the counter is not touched. -/
def execScnLatch (a : Addr) (d : Byte) (s : State) : Result :=
  command (.scnLatch a d) s fun m r => { r with irq := r.irq.setLatch (resolve m a d) }

/-- SCN.RELOAD (R172): request a reload at the next strobe; the data byte is ignored. -/
def execScnReload (a : Addr) (d : Byte) (s : State) : Result :=
  command (.scnReload a d) s fun _ r => { r with irq := r.irq.requestReload }

/-- SCN.DISABLE (R173): clear enabled and pending; the data byte is ignored. -/
def execScnDisable (a : Addr) (d : Byte) (s : State) : Result :=
  command (.scnDisable a d) s fun _ r => { r with irq := r.irq.disable }

/-- SCN.ENABLE (R174): set enabled and nothing else; the data byte is ignored. -/
def execScnEnable (a : Addr) (d : Byte) (s : State) : Result :=
  command (.scnEnable a d) s fun _ r => { r with irq := r.irq.enable }

/-- SCAN.SCN (R170): reload or decrement, then raise at zero when enabled. -/
def execScanScn (s : State) : Result :=
  command .scanScn s fun _ r => { r with irq := r.irq.strobe }

/-- SCAN.NOP (R176): no effect. -/
def execScanNop (s : State) : Result :=
  command .scanNop s fun _ r => r

end Sys2Proof.Machine
end

