-- ==== Sys2Proof/Machine/Ser.lean ====
section
/-! DEFINITION. The meanings of family SER (42_serial_shift.md): the five-write serial port and its four target registers. -/

namespace Sys2Proof.Machine

/-- The accumulator with the bit of this write in place (R152). -/
def Shift.accept (q : Shift) (d : Byte) : BitVec 5 := q.acc ||| (serialBit d <<< q.cnt.val)

/-- The shift step (R152): the write that brings the count to 5 loads a register and starts a new
sequence. -/
def serShift (d : Byte) (load : BitVec 5 → Regs → Regs) (r : Regs) : Regs :=
  if r.sr.cnt.val + 1 = 5 then { load (r.sr.accept d) r with sr := ⟨0, 0⟩ }
  else { r with sr := ⟨r.sr.accept d, Fin.ofNat 5 (r.sr.cnt.val + 1)⟩ }

/-- SER.RESET (R151): abandon the sequence and force P to 3; no register is loaded. -/
def execSerReset (a : Addr) (d : Byte) (s : State) : Result :=
  command (.serReset a d) s fun _ r => { r with sr := ⟨0, 0⟩, ctrl := r.ctrl ||| 0x0C }

/-- SER.SH0 (R154): the fifth write loads `CTRL` and the mirroring mode it names. -/
def execSerSh0 (a : Addr) (d : Byte) (s : State) : Result :=
  command (.serSh0 a d) s fun m r =>
    serShift (resolve m a d) (fun v r => setMirr m (serMirr v) { r with ctrl := v }) r

/-- SER.SH1 (R155): the fifth write loads `CHR0`. -/
def execSerSh1 (a : Addr) (d : Byte) (s : State) : Result :=
  command (.serSh1 a d) s fun m r => serShift (resolve m a d) (fun v r => { r with chr0 := v }) r

/-- SER.SH2 (R156): the fifth write loads `CHR1`. -/
def execSerSh2 (a : Addr) (d : Byte) (s : State) : Result :=
  command (.serSh2 a d) s fun m r => serShift (resolve m a d) (fun v r => { r with chr1 := v }) r

/-- SER.SH3 (R157): the fifth write loads `PRG`, the program-RAM gate with it. -/
def execSerSh3 (a : Addr) (d : Byte) (s : State) : Result :=
  command (.serSh3 a d) s fun m r => serShift (resolve m a d) (fun v r => { r with prg := v }) r

end Sys2Proof.Machine
end

