-- ==== Sys2Proof/Machine/Dispatch.lean ====
section
/-! DEFINITION. One arm for each operation: a direct call of its meaning. -/

namespace Sys2Proof.Machine

def exec (i : Instr) (s : State) : Host.Outcome State Fault Refusal :=
  match i with
  | .prgRd a => Sys2Proof.Machine.execPrgRd a s
  | .ramRd a => Sys2Proof.Machine.execRamRd a s
  | .expRd a => Sys2Proof.Machine.execExpRd a s
  | .muxCount a d => Sys2Proof.Machine.execMuxCount a d s
  | .ramWr a d => Sys2Proof.Machine.execRamWr a d s
  | .expWr a d => Sys2Proof.Machine.execExpWr a d s
  | .chrRd a => Sys2Proof.Machine.execChrRd a s
  | .ntRd a => Sys2Proof.Machine.execNtRd a s
  | .chrWr a d => Sys2Proof.Machine.execChrWr a d s
  | .ntWr a d => Sys2Proof.Machine.execNtWr a d s
  | .dscBank a d => Sys2Proof.Machine.execDscBank a d s
  | .serReset a d => Sys2Proof.Machine.execSerReset a d s
  | .serSh0 a d => Sys2Proof.Machine.execSerSh0 a d s
  | .serSh1 a d => Sys2Proof.Machine.execSerSh1 a d s
  | .serSh2 a d => Sys2Proof.Machine.execSerSh2 a d s
  | .serSh3 a d => Sys2Proof.Machine.execSerSh3 a d s
  | .scnBsel a d => Sys2Proof.Machine.execScnBsel a d s
  | .scnBdat a d => Sys2Proof.Machine.execScnBdat a d s
  | .scnMirr a d => Sys2Proof.Machine.execScnMirr a d s
  | .scnNop a d => Sys2Proof.Machine.execScnNop a d s
  | .scnLatch a d => Sys2Proof.Machine.execScnLatch a d s
  | .scnReload a d => Sys2Proof.Machine.execScnReload a d s
  | .scnDisable a d => Sys2Proof.Machine.execScnDisable a d s
  | .scnEnable a d => Sys2Proof.Machine.execScnEnable a d s
  | .cycPrg16 a d => Sys2Proof.Machine.execCycPrg16 a d s
  | .cycMirr a d => Sys2Proof.Machine.execCycMirr a d s
  | .cycPrg8 a d => Sys2Proof.Machine.execCycPrg8 a d s
  | .cycChrlo a d => Sys2Proof.Machine.execCycChrlo a d s
  | .cycChrhi a d => Sys2Proof.Machine.execCycChrhi a d s
  | .cycLatch a d => Sys2Proof.Machine.execCycLatch a d s
  | .cycCtrl a d => Sys2Proof.Machine.execCycCtrl a d s
  | .cycAck a d => Sys2Proof.Machine.execCycAck a d s
  | .muxChr a d => Sys2Proof.Machine.execMuxChr a d s
  | .muxPrg0 a d => Sys2Proof.Machine.execMuxPrg0 a d s
  | .muxPrg1 a d => Sys2Proof.Machine.execMuxPrg1 a d s
  | .muxPrg2 a d => Sys2Proof.Machine.execMuxPrg2 a d s
  | .romNop a d => Sys2Proof.Machine.execRomNop a d s
  | .clkCyc => Sys2Proof.Machine.execClkCyc s
  | .clkMux => Sys2Proof.Machine.execClkMux s
  | .clkNop => Sys2Proof.Machine.execClkNop s
  | .scanScn => Sys2Proof.Machine.execScanScn s
  | .scanNop => Sys2Proof.Machine.execScanNop s
  | .qmir => Sys2Proof.Machine.execQmir s
  | .qirq => Sys2Proof.Machine.execQirq s
  | .init => Sys2Proof.Machine.execInit s
  | .save => Sys2Proof.Machine.execSave s
  | .restore => Sys2Proof.Machine.execRestore s
  | .unload => Sys2Proof.Machine.execUnload s

end Sys2Proof.Machine
end

