-- ==== Sys2Proof/Machine/Present.lean ====
section
/-! DEFINITION. How a word comes to be the next operation: what stands in for the host that loads a
cartridge and presents a request (DESIGN CHOICE, log entry 2). Used by `State.withFetchWord` alone;
no step calls it. -/

namespace Sys2Proof.Machine

/-- The mapper number of a family (R241). -/
def mapperOf : Family → Nat
  | .fix => 0
  | .ser => 1
  | .dsc => 2
  | .scn => 4
  | .mux => 19
  | .cyc => 24

/-- A smallest board of a family: one bank of program ROM and one of graphics ROM, all bytes zero. -/
def plainCfg (f : Family) : Cfg where
  mapper := mapperOf f
  submapper := none
  prgBanks := 1
  chrBanks := 1
  battery := false
  initMirr := .horizontal
  prgRom := ⟨16384, []⟩
  chrRom := ⟨8192, []⟩
  hasPrgRam := true
  openBus := 0
  conflictWhenUnspecified := false
  prescalerReload := 114
  channelDivisor := 15
  prgRamInit := []
  chrRamInit := []

/-- The instance in which a word of phase `p` can be presented: the one loaded when it is of that
phase, else a fresh one, or none for the unloaded phase. -/
def instanceFor (i : Option Instance) (p : Option Family) : Option Instance :=
  if i.map Instance.family = p then i else p.map fun f => loadInstance f (plainCfg f)

/-- The operand beside the word: a configuration INIT accepts, and the blob SAVE would return, which
RESTORE accepts. -/
def operandFor (i : Option Instance) : HostOperand where
  cfg := plainCfg .fix
  blob := blobOf (i.getD (loadInstance .fix (plainCfg .fix)))

/-- The word is the next the host presents, before those it presents already, on a block in phase
`p`. -/
def State.present (s : State) (p : Option Family) (w : Word) : State :=
  { s with
    inst := instanceFor s.inst p
    requests := ⟨w, operandFor (instanceFor s.inst p)⟩ :: s.requests }

end Sys2Proof.Machine
end

