-- ==== Sys2Proof/Machine/Step.lean ====
section
/-! DEFINITION. One step: the operation the host presents next, decoded in the phase the block is in,
and executed (R12, R94). The block fetches nothing of its own (R22). -/

namespace Sys2Proof.Machine

/-- One step. When the host presents nothing, nothing changes (R274; DEDUCED, log entry 14). -/
def step (s : State) : Host.Outcome State Fault Refusal :=
  match s.requests with
  | [] => .next s
  | r :: rest =>
    match decode s.phase r.word with
    | .error e => .refused (refusalOf e)
    | .ok i => exec i (s.takeRequest r rest)

/-- The state in which a word of the opcode table is the operation presented next, in the phase
`tablePhase` names for it. -/
def State.withFetchWord (s : State) (nbits w : Nat) : State :=
  s.present (tablePhase (tableWord nbits w)) (tableWord nbits w)

end Sys2Proof.Machine
end

