-- ==== Sys2Proof/Safety.lean ====
section
/-! DEFINITION. The terms claims use: a loaded instance that has an operation, the invariants of the
machine (R41 and what R23, R141, R225 and R232 add to it), and runs. -/

namespace Sys2Proof.Machine

/-- `m` is loaded and operation `i`, with these operand fields, is one of its family. -/
def Accepts (s : State) (m : Instance) (i : Instr) : Prop :=
  s.inst = some m ∧ i.inFamily m.family = true

/-- What INIT computes from the configuration is still what the instance holds (R39), and the
configuration passed INIT's checks (R240). -/
structure Instance.Configured (m : Instance) : Prop where
  family   : familyOf m.cfg.mapper = some m.family
  conflict : m.conflict = conflictPolicy m.family m.cfg
  checked  : cfgOk m.cfg = true

/-- Both RAM regions are arrays of 8192 bytes where the board has them, in canonical form, and empty
where it has none (R25, R26). -/
structure RamInv (c : Cfg) (r : Regs) : Prop where
  prgRam : ramShape c.hasPrgRam r.prgRam = true
  chrRam : ramShape (hasChrRam c) r.chrRam = true

/-- Two states of a family agree in every element the family does not use (R23, R35). -/
structure SameUnused (f : Family) (r r' : Regs) : Prop where
  ser : f ≠ .ser → r.sr = r'.sr ∧ r.ctrl = r'.ctrl ∧ r.chr0 = r'.chr0 ∧ r.chr1 = r'.chr1 ∧ r.prg = r'.prg
  dsc : f ≠ .dsc → r.bank = r'.bank
  scn : f ≠ .scn → r.bsel = r'.bsel ∧ r.br = r'.br ∧ r.irq.reload = r'.irq.reload
  cyc : f ≠ .cyc → r.p16 = r'.p16 ∧ r.p8 = r'.p8 ∧ r.irq.rearm = r'.irq.rearm ∧
    r.irq.mode = r'.irq.mode ∧ r.irq.prescaler = r'.irq.prescaler
  mux : f ≠ .mux → r.mp = r'.mp ∧ r.ch = r'.ch
  /-- `CR` is used by CYC and MUX -/
  cr  : f ≠ .cyc → f ≠ .mux → r.cr = r'.cr
  /-- the rest of `IRQ` is used by SCN and CYC -/
  irq : f ≠ .scn → f ≠ .cyc → r.irq = r'.irq

/-- What holds of the mutable state of a family on a configuration (R41). `cnt` below 5 and `mirr`
one of five modes hold by their types. -/
structure RegsInv (c : Cfg) (f : Family) (r : Regs) : Prop where
  /-- R41 (a): accumulator bits at and above the count are zero -/
  accClear : ∀ k, r.sr.cnt.val ≤ k → r.sr.acc.getLsbD k = false
  /-- R41 (b) -/
  curLe : r.ch.cur.toNat ≤ r.ch.count.toNat
  /-- R41 (c) -/
  divLt : r.ch.div < c.channelDivisor
  /-- R41 (d) -/
  prescalerLe : r.irq.prescaler ≤ c.prescalerReload
  /-- R41 (f), R227 -/
  locked : c.initMirr = .fourScreen → r.mirr = .fourScreen
  /-- R41 (g) -/
  serMode : f = .ser → c.initMirr ≠ .fourScreen → r.mirr = serMirr r.ctrl
  /-- R225: the mode of FIX, DSC and MUX is the initial one -/
  fixedMode : f = .fix ∨ f = .dsc ∨ f = .mux → r.mirr = c.initMirr
  /-- R23: the elements of the other families keep their load values -/
  unused : SameUnused f r (loadRegs c)
  /-- R232: a family without an interrupt source is never pending -/
  quiet : f ≠ .scn → f ≠ .cyc → r.irq.pending = false
  /-- in SCN nothing is pending while disabled (95_test_vectors.md, below V-46-12) -/
  scnPending : f = .scn → r.irq.pending = true → r.irq.enabled = true
  ram : RamInv c r

/-- The invariant of a loaded instance. -/
structure Instance.Inv (m : Instance) : Prop where
  configured : m.Configured
  regs       : RegsInv m.cfg m.family m.regs

/-- The invariant of the machine: it holds of the loaded instance, if there is one. -/
def State.Inv (s : State) : Prop := ∀ m, s.inst = some m → m.Inv

/-- `b` is a blob SAVE returned (R243) on some instance in a state with the invariant, and the host has
not altered it (R249). -/
def Blob.Saved (b : Blob) : Prop := ∃ m : Instance, m.Inv ∧ b = blobOf m

/-- The canonical form of memory alone, in the loaded instance. -/
def State.RamOk (s : State) : Prop := ∀ m, s.inst = some m → RamInv m.cfg m.regs

/-- The loaded instance, if there is one, still holds what INIT computed. -/
def State.Configured (s : State) : Prop := ∀ m, s.inst = some m → m.Configured

/-- The shift write of a quarter (R152). -/
def shiftWrite (q : Fin 4) (a : Addr) (d : Byte) : Instr :=
  match q with
  | 0 => .serSh0 a d
  | 1 => .serSh1 a d
  | 2 => .serSh2 a d
  | 3 => .serSh3 a d

/-- The selector and the size of the window that shows a program address, by the address alone: FIX
(R123), DSC (R145), SER with P, B (R158), SCN with PM (R181), CYC (R201), MUX (R218). The last bank
is `prg_banks - 1` in 16 KiB banks and `2 * prg_banks - 1` in 8 KiB banks (R120, R122). -/
def shownPrg (m : Instance) (a : Nat) : Nat × Nat :=
  let r := m.regs
  let n := m.cfg.prgBanks
  match m.family with
  | .fix => (if a < 0xC000 then 0 else n - 1, 16384)
  | .dsc => (if a < 0xC000 then r.bank.toNat else n - 1, 16384)
  | .ser =>
    let b := r.prg.toNat % 16
    (match r.ctrl.toNat / 4 % 4 with
      | 2 => if a < 0xC000 then 0 else b
      | 3 => if a < 0xC000 then b else n - 1
      | _ => if a < 0xC000 then b / 2 * 2 else b / 2 * 2 + 1, 16384)
  | .scn =>
    let swapped := r.bsel.toNat / 64 % 2 = 1
    (if a < 0xA000 then (if swapped then 2 * n - 2 else r.br[6].toNat)
      else if a < 0xC000 then r.br[7].toNat
      else if a < 0xE000 then (if swapped then r.br[6].toNat else 2 * n - 2)
      else 2 * n - 1, 8192)
  | .cyc =>
    if a < 0xC000 then (r.p16.toNat, 16384)
    else if a < 0xE000 then (r.p8.toNat, 8192)
    else (2 * n - 1, 8192)
  | .mux =>
    (if a < 0xA000 then r.mp[0].toNat
      else if a < 0xC000 then r.mp[1].toNat
      else if a < 0xE000 then r.mp[2].toNat
      else 2 * n - 1, 8192)

/-- The selector SCN shows in 1 KiB graphics window `k` (R182): `BR[0]` and `BR[1]` drive the pairs of
one half, `BR[2]` to `BR[5]` the windows of the other, and CM says which half is which. -/
def shownScnChr (cm : Bool) (br : Vector Byte 8) (k : Nat) : Nat :=
  if (cm = true ↔ 4 ≤ k) then br[k % 4 / 2].toNat / 2 * 2 + k % 2 else br[2 + k % 4].toNat

/-- The selector and the size of the window that shows a pattern address, by the address alone: FIX
and DSC (R123, R145), SER with C (R159), SCN with CM (R182), CYC (R201), MUX (R218). -/
def shownChr (m : Instance) (a : Nat) : Nat × Nat :=
  let r := m.regs
  match m.family with
  | .fix | .dsc => (0, 8192)
  | .ser =>
    (if 16 ≤ r.ctrl.toNat then (if a < 0x1000 then r.chr0.toNat else r.chr1.toNat)
      else if a < 0x1000 then r.chr0.toNat / 2 * 2 else r.chr0.toNat / 2 * 2 + 1, 4096)
  | .scn => (shownScnChr (decide (128 ≤ r.bsel.toNat)) r.br (a / 1024), 1024)
  | .cyc | .mux => (r.cr[a / 1024 % 8].toNat, 1024)

/-- The program window that shows this address has a constant selector while the mode fields P and
PM stand as they do (R135; R123, R145, R158, R181, R201, R218). -/
def inFixedWindow (m : Instance) (a : Nat) : Prop :=
  match m.family with
  | .fix => 0x8000 ≤ a
  | .dsc => 0xC000 ≤ a
  | .ser => (serP m.regs = 2 ∧ 0x8000 ≤ a ∧ a < 0xC000) ∨ (serP m.regs = 3 ∧ 0xC000 ≤ a)
  | .scn =>
    0xE000 ≤ a ∨ (scnPm m.regs = false ∧ 0xC000 ≤ a)
      ∨ (scnPm m.regs = true ∧ 0x8000 ≤ a ∧ a < 0xA000)
  | .cyc => 0xE000 ≤ a
  | .mux => 0xE000 ≤ a

/-- One operation after another; the first refusal ends the run. -/
def runInstrs : List Instr → State → Result
  | [], s => .next s
  | i :: is, s =>
    match exec i s with
    | .next t => runInstrs is t
    | .fault r => .fault r
    | .refused r => .refused r

/-- The same operation `n` times. -/
def runRepeat (i : Instr) (n : Nat) (s : State) : Result := runInstrs (List.replicate n i) s

/-- What `n` steps show: the output of each, and the instance at the end. A refusal ends it. -/
def observe : Nat → State → List Output × Option Instance
  | 0, s => ([], s.inst)
  | n + 1, s =>
    match step s with
    | .next t => (t.out :: (observe n t).1, (observe n t).2)
    | .fault _ => ([], s.inst)
    | .refused _ => ([], s.inst)

end Sys2Proof.Machine
end

