-- ==== Sys2Proof/Certificates/Slice0/Obligations.lean ====
section
/-! DEFINITION. What is claimed of the machine, from the numbered rules of the spec. `s.answer m o`
is `s` with instance `m` and output `o` and all else unchanged, and `m.update f` is `m` with its
registers changed by `f` and all else unchanged; so an equation that gives the next state in these
terms also says what the operation leaves unchanged: every field of `Regs` it does not name, every
byte of memory, the configuration, and the requests still to come. -/

open Sys2Proof Sys2Proof.Machine

/-! ### Decode and step -/

/-- Every operation of every family and of the unloaded phase, with every value of its operand
fields, is what decode reads from its word (R90 to R101, R104). -/
def Obligations.DecodeInvertsEncode : Prop :=
  ∀ (phase : Option Family) (i : Instr), i.wf phase = true → decode phase (encode i) = .ok i

/-- Whatever decode accepts is an operation of that phase and family, with operand fields its row of
R92 allows, and it has this one word: no two words decode to one operation. -/
def Obligations.DecodedWordEncodesItsInstruction : Prop :=
  ∀ (phase : Option Family) (w : Word) (i : Instr),
    decode phase w = .ok i → i.wf phase = true ∧ encode i = w

/-- The refusals of a word, in the order of R265, with op, address and data computed from the word by
arithmetic (R90, R91, R94, R95). -/
def Obligations.DecodeRefusesInOrder : Prop :=
  ∀ (phase : Option Family) (w : Word) (op a d : Nat),
    op = w.toNat / 2 ^ 24 → a = w.toNat / 2 ^ 8 % 2 ^ 16 → d = w.toNat % 2 ^ 8 →
    if 0x0B < op ∨ (4 ≤ op ∧ a ≠ 0) ∨ (op ≠ 1 ∧ op ≠ 3 ∧ d ≠ 0) then
      decode phase w = .error .notAnOperation
    else if phase = none then
      decode phase w = if op = 8 then .ok .init else .error .notLoaded
    else if op = 8 then decode phase w = .error .alreadyLoaded
    else if (op ≤ 1 ∧ a < 0x4020) ∨ ((op = 2 ∨ op = 3) ∧ 0x3FFF < a) then
      decode phase w = .error .notInDomain
    else ∃ i, decode phase w = .ok i

/-- A few words written out from R104 and the tables of R99 to R101 decode as the spec says. -/
def Obligations.SpecWordsDecode : Prop :=
  decode (some .fix) 0x018000FF = .ok (.romNop 0x8000 0xFF) ∧
  decode (some .dsc) 0x01FFFF00 = .ok (.dscBank 0xFFFF 0x00) ∧
  decode (some .ser) 0x01DFFF01 = .ok (.serSh2 0xDFFF 0x01) ∧
  decode (some .scn) 0x01C00100 = .ok (.scnReload 0xC001 0x00) ∧
  decode (some .cyc) 0x01BFFF0C = .ok (.cycMirr 0xBFFF 0x0C) ∧
  decode (some .mux) 0x01980021 = .ok (.muxChr 0x9800 0x21) ∧
  decode (some .ser) 0x01480040 = .ok (.expWr 0x4800 0x40) ∧
  decode none 0x08000000 = .ok .init

/-- A step is the operation the host presents next: decoded in the phase the block is in and executed
with its operand beside it and the rest still to come, or refused with decode's reason; when nothing
is presented, nothing changes (from R12, R94, R274). That the requests are a list in the state, whose
first is taken off, and the operand a field beside the word is the model's choice (DESIGN CHOICE, log
entry 3); that a refusal ends the run is DEDUCED (log entry 11). -/
def Obligations.StepRunsDecodedOperation : Prop :=
  ∀ s : State,
    (∀ r rest i, s.requests = r :: rest → decode (s.inst.map Instance.family) r.word = .ok i →
      step s = exec i { s with operand := r.operand, requests := rest }) ∧
    (∀ r rest e, s.requests = r :: rest → decode (s.inst.map Instance.family) r.word = .error e →
      step s = .refused (match e with
        | .notAnOperation => .notAnOperation
        | .notLoaded => .notLoaded
        | .alreadyLoaded => .alreadyLoaded
        | .notInDomain => .notInDomain)) ∧
    (s.requests = [] → step s = .next s)

/-- The block starts unloaded, and the machine's invariant holds there. That `State.reset` is the
unloaded phase is the model's choice (log entry 1). -/
def Obligations.ResetIsUnloadedWithInvariant : Prop :=
  State.reset.inst = none ∧ State.reset.requests = [] ∧ State.reset.Inv ∧ State.reset.Configured ∧
    State.reset.RamOk

/-- R21, R94: on an unloaded block every operation but INIT is refused as not loaded. -/
def Obligations.UnloadedBlockRefusesAllButInit : Prop :=
  ∀ (s : State) (i : Instr), s.inst = none → i ≠ .init → exec i s = .refused .notLoaded

/-! ### Translation -/

/-- R42: every address of program-ROM space and of the pattern region lies in exactly one window, and
the bases and sizes of a family's windows are the same whatever the configuration and registers. -/
def Obligations.WindowsCoverEveryAddressOnce : Prop :=
  (∀ (m : Instance) (a : Nat), 0x8000 ≤ a → a ≤ 0xFFFF →
    ((prgTable m).filter fun w => w.covers a).length = 1) ∧
  (∀ (m : Instance) (a : Nat), a ≤ 0x1FFF →
    ((chrTable m).filter fun w => w.covers a).length = 1) ∧
  (∀ m m' : Instance, m.family = m'.family →
    (prgTable m).map (fun w => (w.base, w.wsize)) = (prgTable m').map (fun w => (w.base, w.wsize)) ∧
    (chrTable m).map (fun w => (w.base, w.wsize)) = (chrTable m').map (fun w => (w.base, w.wsize)))

/-- R121 and R16 (a): a translated offset is always inside the space, whatever the bank registers
hold. -/
def Obligations.OffsetsStayInsideTheSpace : Prop :=
  ∀ (m : Instance) (a : Addr) (off : Nat), 1 ≤ m.cfg.prgBanks →
    (prgOffset m a = some off → off < m.cfg.prgBanks * 16384) ∧
    (chrOffset m a = some off → off < if m.cfg.chrBanks = 0 then 8192 else m.cfg.chrBanks * 8192)

/-- R135: at an address in a fixed window, two instances of one cartridge with the same mode fields
translate alike, whatever their bank registers. -/
def Obligations.FixedWindowsIgnoreBankRegisters : Prop :=
  ∀ (m m' : Instance) (a : Addr), m.cfg = m'.cfg → m.family = m'.family →
    serP m.regs = serP m'.regs → scnPm m.regs = scnPm m'.regs →
    (inFixedWindow m a.toNat → prgOffset m a = prgOffset m' a) ∧
    (m.family = .fix ∨ m.family = .dsc → chrOffset m a = chrOffset m' a)

/-- R293: after INIT the window at the top of the address space shows the last bank, in every
family. -/
def Obligations.LastBankAtTopAfterLoad : Prop :=
  ∀ (f : Family) (c : Cfg) (a : Addr), 1 ≤ c.prgBanks → 0xE000 ≤ a.toNat →
    prgOffset (loadInstance f c) a = some (c.prgBanks * 16384 + a.toNat - 0x10000)

/-- R123 on a board of one bank: the low and the high window of FIX return the same byte. -/
def Obligations.OneBankFixBoardMirrors : Prop :=
  ∀ (s : State) (m : Instance) (a b : Addr), Accepts s m (.prgRd a) → m.family = .fix →
    m.cfg.prgBanks = 1 → a.toNat < 0xC000 → b.toNat = a.toNat + 0x4000 →
    exec (.prgRd a) s = .next (s.answer m (.byte (m.cfg.prgRom.cells.read (a.toNat - 0x8000)))) ∧
    exec (.prgRd b) s = exec (.prgRd a) s

/-! ### Bus access -/

/-- R124: PRG.RD. The window that covers the address has the selector and size the family's rule
gives (R158, R181; the program tables of R123, R145, R201, R218), and the byte is at the offset it
translates to. -/
def Obligations.ProgramReadReturnsWindowByte : Prop :=
  ∀ (s : State) (m : Instance) (a : Addr), Accepts s m (.prgRd a) →
    ∃ w ∈ prgTable m, w.base ≤ a.toNat ∧ a.toNat < w.base + w.wsize ∧
      w.base = a.toNat / w.wsize * w.wsize ∧ (w.sel, w.wsize) = shownPrg m a.toNat ∧
      ∃ off, off = (w.sel % (m.cfg.prgBanks * 16384 / w.wsize)) * w.wsize
          + (a.toNat - w.base) % w.wsize ∧
        prgOffset m a = some off ∧
        exec (.prgRd a) s = .next (s.answer m (.byte (m.cfg.prgRom.cells.read off)))

/-- R125: RAM.RD, with the gate of R134. -/
def Obligations.RamReadReturnsByteOrOpenBus : Prop :=
  ∀ (s : State) (m : Instance) (a : Addr), Accepts s m (.ramRd a) →
    exec (.ramRd a) s = .next (s.answer m (.byte
      (if m.cfg.hasPrgRam = true ∧ ¬(m.family = .ser ∧ m.regs.prg.getLsbD 4 = true)
        then m.regs.prgRam.read (a.toNat - 0x6000) else m.cfg.openBus)))

/-- R126 and R132: EXP.RD and NT.RD. -/
def Obligations.UndrivenReadsReturnOpenBus : Prop :=
  ∀ (s : State) (m : Instance) (a : Addr) (i : Instr), i = .expRd a ∨ i = .ntRd a → Accepts s m i →
    exec i s = .next (s.answer m (.byte m.cfg.openBus))

/-- R127: RAM.WR stores one byte when program RAM is there and enabled, else nothing. -/
def Obligations.RamWriteStoresOneByte : Prop :=
  ∀ (s : State) (m : Instance) (a : Addr) (d : Byte), Accepts s m (.ramWr a d) →
    RamInv m.cfg m.regs →
    ∃ ram, exec (.ramWr a d) s
        = .next (s.answer (m.update fun r => { r with prgRam := ram }) .nothing) ∧
      if m.cfg.hasPrgRam = true ∧ ¬(m.family = .ser ∧ m.regs.prg.getLsbD 4 = true) then
        ∀ off, ram.read off = if off = a.toNat - 0x6000 then d else m.regs.prgRam.read off
      else ram = m.regs.prgRam

/-- R128, R129, R133, R176, R180, R197: operations that are accepted and change nothing. -/
def Obligations.EffectlessOperationsChangeNothing : Prop :=
  ∀ (s : State) (m : Instance) (i : Instr) (a : Addr) (d : Byte),
    i ∈ [.expWr a d, .romNop a d, .ntWr a d, .scnNop a d, .clkNop, .scanNop] → Accepts s m i →
    exec i s = .next (s.answer m .nothing)

/-- R130: CHR.RD. The window that covers the address has the selector and size the family's rule
gives (R159, R182; the graphics tables of R123, R145, R201, R218), and the byte is at the offset it
translates to, in graphics ROM or graphics RAM. -/
def Obligations.GraphicsReadReturnsWindowByte : Prop :=
  ∀ (s : State) (m : Instance) (a : Addr), Accepts s m (.chrRd a) →
    ∃ w ∈ chrTable m, w.base ≤ a.toNat ∧ a.toNat < w.base + w.wsize ∧
      w.base = a.toNat / w.wsize * w.wsize ∧ (w.sel, w.wsize) = shownChr m a.toNat ∧
      ∃ off, off = (w.sel % ((if 0 < m.cfg.chrBanks then m.cfg.chrBanks * 8192 else 8192) / w.wsize))
          * w.wsize + (a.toNat - w.base) % w.wsize ∧
        chrOffset m a = some off ∧
        exec (.chrRd a) s = .next (s.answer m (.byte
          (if 0 < m.cfg.chrBanks then m.cfg.chrRom.cells.read off else m.regs.chrRam.read off)))

/-- R131: CHR.WR stores one byte through the windows on graphics RAM, and is discarded on graphics
ROM. The window that covers the address has the selector and size the family's rule gives (R159,
R182; the graphics tables of R123, R145, R201, R218). -/
def Obligations.GraphicsWriteStoresThroughWindow : Prop :=
  ∀ (s : State) (m : Instance) (a : Addr) (d : Byte), Accepts s m (.chrWr a d) →
    RamInv m.cfg m.regs →
    ∃ w ∈ chrTable m, w.base ≤ a.toNat ∧ a.toNat < w.base + w.wsize ∧
      w.base = a.toNat / w.wsize * w.wsize ∧ (w.sel, w.wsize) = shownChr m a.toNat ∧
      ∃ ram, exec (.chrWr a d) s
          = .next (s.answer (m.update fun r => { r with chrRam := ram }) .nothing) ∧
        if m.cfg.chrBanks = 0 then
          ∀ off, ram.read off =
            if off = (w.sel % (8192 / w.wsize)) * w.wsize + (a.toNat - w.base) % w.wsize then d
            else m.regs.chrRam.read off
        else ram = m.regs.chrRam

/-- R72 (b), R304: a byte stored in a RAM region is what the next read of that location returns,
in graphics RAM also through another window that shows the same location. -/
def Obligations.StoredByteIsReadBack : Prop :=
  (∀ (s : State) (m : Instance) (a : Addr) (d : Byte), Accepts s m (.ramWr a d) →
    RamInv m.cfg m.regs → ramAnswers m = true →
    ∃ t u, exec (.ramWr a d) s = .next t ∧ exec (.ramRd a) t = .next u ∧ u.out = .byte d) ∧
  (∀ (s : State) (m : Instance) (a b : Addr) (d : Byte), Accepts s m (.chrWr a d) →
    Accepts s m (.chrRd b) → RamInv m.cfg m.regs → m.cfg.chrBanks = 0 →
    chrOffset m b = chrOffset m a →
    ∃ t u, exec (.chrWr a d) s = .next t ∧ exec (.chrRd b) t = .next u ∧ u.out = .byte d)

/-- R69: reads and queries leave the instance as it is, and a second one returns the same. -/
def Obligations.ReadsHaveNoSideEffect : Prop :=
  ∀ (s t : State) (a : Addr) (i : Instr),
    i ∈ [.prgRd a, .ramRd a, .expRd a, .chrRd a, .ntRd a, .qmir, .qirq] → exec i s = .next t →
    t.inst = s.inst ∧ ∃ u, exec i t = .next u ∧ u.out = t.out ∧ u.inst = s.inst

/-- R64, R70: no operation but RAM.WR and RESTORE changes program RAM, none but CHR.WR and RESTORE
changes graphics RAM, in a block that stays loaded; and a write into program-ROM space outside SER,
made twice with the same effective byte, leaves the state of once. The effective byte (R107, R140) is
the data byte in every case but one: on a board with conflicts a DSC.BANK in the switchable window takes
the ROM byte of the bank in force before the write (R143, R144), which the first write may have changed,
as V-41-16 does. R70 names no such case (DESIGN CHOICE, log entry 16). -/
def Obligations.OnlyStoresChangeMemory : Prop :=
  (∀ (s t : State) (m u : Instance) (i : Instr), s.inst = some m → exec i s = .next t →
    t.inst = some u → i ≠ .restore →
    ((∀ a d, i ≠ .ramWr a d) → u.regs.prgRam = m.regs.prgRam) ∧
    ((∀ a d, i ≠ .chrWr a d) → u.regs.chrRam = m.regs.chrRam)) ∧
  ∀ (s t : State) (m u : Instance) (i : Instr) (a : Addr) (d : Byte), s.inst = some m →
    m.Configured →
    i ∈ [.romNop a d, .dscBank a d, .scnBsel a d, .scnBdat a d, .scnMirr a d, .scnNop a d,
      .scnLatch a d, .scnReload a d, .scnDisable a d, .scnEnable a d, .cycPrg16 a d, .cycMirr a d,
      .cycPrg8 a d, .cycChrlo a d, .cycChrhi a d, .cycLatch a d, .cycCtrl a d, .cycAck a d,
      .muxChr a d, .muxPrg0 a d, .muxPrg1 a d, .muxPrg2 a d] →
    exec i s = .next t → t.inst = some u →
    (m.conflict = true → a.toNat < 0xC000 → d &&& prgByte u a = d &&& prgByte m a) →
    exec i t = .next t

/-! ### Family DSC -/

/-- R143, R144: the bank register takes the data byte, ANDed on a board with conflicts with what
PRG.RD at that address returns before the write; all eight bits are kept. -/
def Obligations.BankWriteTakesEffectiveByte : Prop :=
  ∀ (s : State) (m : Instance) (a : Addr) (d : Byte), Accepts s m (.dscBank a d) →
    ∃ b, exec (.prgRd a) s = .next (s.answer m (.byte b)) ∧
      exec (.dscBank a d) s = .next (s.answer
        (m.update fun r => { r with bank := if m.conflict = true then d &&& b else d }) .nothing)

/-- R146: the arbiter never sets a bit the data has clear, passes the data unchanged when the policy
is off or the ROM byte is 0xFF, and commutes with a command's mask. -/
def Obligations.ArbiterOnlyClearsBits : Prop :=
  ∀ (m : Instance) (a : Addr) (d mask : Byte),
    resolve m a d &&& ~~~d = 0 ∧
    (m.conflict = false → resolve m a d = d) ∧
    (prgByte m a = 0xFF → resolve m a d = d) ∧
    resolve m a d &&& mask = resolve m a (d &&& mask)

/-! ### Family SER -/

/-- R151: SER.RESET. -/
def Obligations.SerialResetAbandonsSequence : Prop :=
  ∀ (s : State) (m : Instance) (a : Addr) (d : Byte), Accepts s m (.serReset a d) →
    exec (.serReset a d) s = .next (s.answer
      (m.update fun r => { r with sr := ⟨0, 0⟩, ctrl := r.ctrl ||| 0x0C }) .nothing) ∧
    ∀ k, (m.regs.ctrl ||| 0x0C).getLsbD k = (m.regs.ctrl.getLsbD k || k == 2 || k == 3)

/-- R152, R154 to R157: a shift write that is not the fifth collects its bit; the fifth loads the
register of its quarter (and the mirroring mode with `CTRL`) and starts a new sequence. -/
def Obligations.ShiftWriteCollectsOrLoads : Prop :=
  ∀ (s : State) (m : Instance) (q : Fin 4) (a : Addr) (d : Byte) (v : BitVec 5),
    Accepts s m (shiftWrite q a d) → m.Configured →
    v = m.regs.sr.acc ||| BitVec.ofNat 5 (d.toNat % 2 * 2 ^ m.regs.sr.cnt.val) →
    ∃ r, exec (shiftWrite q a d) s = .next (s.answer (m.update fun _ => r) .nothing) ∧
      if h : m.regs.sr.cnt.val < 4 then
        r = { m.regs with sr := ⟨v, ⟨m.regs.sr.cnt.val + 1, Nat.succ_lt_succ h⟩⟩ }
      else
        r = { m.regs with
          sr := ⟨0, 0⟩
          ctrl := if q = 0 then v else m.regs.ctrl
          chr0 := if q = 1 then v else m.regs.chr0
          chr1 := if q = 2 then v else m.regs.chr1
          prg := if q = 3 then v else m.regs.prg
          mirr := if q = 0 ∧ m.cfg.initMirr ≠ .fourScreen then
              (match v.toNat % 4 with
               | 0 => .singleLow
               | 1 => .singleHigh
               | 2 => .vertical
               | _ => .horizontal)
            else m.regs.mirr }

/-- P-4, R162 (a), (d): from the start of a sequence five shift writes, to any quarters, load their
five bits, the first bit lowest, into the register of the fifth write's quarter and leave the other
three. -/
def Obligations.FiveShiftWritesLoadFifthQuarter : Prop :=
  ∀ (s : State) (m : Instance) (q0 q1 q2 q3 q4 : Fin 4) (a0 a1 a2 a3 a4 : Addr)
    (d0 d1 d2 d3 d4 : Byte) (v : BitVec 5),
    s.inst = some m → m.family = .ser → m.Configured → m.regs.sr = ⟨0, 0⟩ →
    (∀ i ∈ [shiftWrite q0 a0 d0, shiftWrite q1 a1 d1, shiftWrite q2 a2 d2, shiftWrite q3 a3 d3,
      shiftWrite q4 a4 d4], i.inFamily .ser = true) →
    v = BitVec.ofNat 5 (d0.toNat % 2 + 2 * (d1.toNat % 2) + 4 * (d2.toNat % 2)
      + 8 * (d3.toNat % 2) + 16 * (d4.toNat % 2)) →
    ∃ t u, runInstrs [shiftWrite q0 a0 d0, shiftWrite q1 a1 d1, shiftWrite q2 a2 d2,
        shiftWrite q3 a3 d3, shiftWrite q4 a4 d4] s = .next t ∧
      t.inst = some u ∧ u.regs.sr = ⟨0, 0⟩ ∧
      u.regs.ctrl = (if q4 = 0 then v else m.regs.ctrl) ∧
      u.regs.chr0 = (if q4 = 1 then v else m.regs.chr0) ∧
      u.regs.chr1 = (if q4 = 2 then v else m.regs.chr1) ∧
      u.regs.prg = (if q4 = 3 then v else m.regs.prg)

/-- R162 (b): nothing but the serial writes (and RESTORE) moves a sequence. -/
def Obligations.OnlySerialWritesMoveTheSequence : Prop :=
  ∀ (s t : State) (m u : Instance) (i : Instr), s.inst = some m → exec i s = .next t →
    t.inst = some u → i ≠ .restore → (∀ a d, i ≠ .serReset a d) →
    (∀ q a d, i ≠ shiftWrite q a d) → u.regs.sr = m.regs.sr

/-! ### Family SCN -/

/-- R170: SCAN.SCN. -/
def Obligations.StrobeStepsScanlineCounter : Prop :=
  ∀ (s : State) (m : Instance) (c : Byte), Accepts s m .scanScn →
    c = (if m.regs.irq.counter = 0 ∨ m.regs.irq.reload = true then m.regs.irq.latch
      else m.regs.irq.counter - 1) →
    exec .scanScn s = .next (s.answer (m.update fun r => { r with irq := { r.irq with
      counter := c
      reload := false
      pending := r.irq.pending || (c == 0 && r.irq.enabled) } }) .nothing)

/-- R171 to R174: the four counter writes of SCN. -/
def Obligations.ScanlineCounterWrites : Prop :=
  ∀ (s : State) (m : Instance) (a : Addr) (d : Byte), m.Configured →
    (Accepts s m (.scnLatch a d) → exec (.scnLatch a d) s = .next (s.answer
      (m.update fun r => { r with irq := { r.irq with latch := d } }) .nothing)) ∧
    (Accepts s m (.scnReload a d) → exec (.scnReload a d) s = .next (s.answer
      (m.update fun r => { r with irq := { r.irq with reload := true } }) .nothing)) ∧
    (Accepts s m (.scnDisable a d) → exec (.scnDisable a d) s = .next (s.answer
      (m.update fun r => { r with irq := { r.irq with enabled := false, pending := false } })
      .nothing)) ∧
    (Accepts s m (.scnEnable a d) → exec (.scnEnable a d) s = .next (s.answer
      (m.update fun r => { r with irq := { r.irq with enabled := true } }) .nothing))

/-- R177, R178: the bank-select write, and the data write to the register it names. -/
def Obligations.ScanlineBankWrites : Prop :=
  ∀ (s : State) (m : Instance) (a : Addr) (d : Byte), m.Configured →
    (Accepts s m (.scnBsel a d) → exec (.scnBsel a d) s = .next (s.answer
      (m.update fun r => { r with bsel := d }) .nothing)) ∧
    (Accepts s m (.scnBdat a d) → ∃ b, exec (.scnBdat a d) s = .next (s.answer
        (m.update fun r => { r with br := b }) .nothing) ∧
      ∀ k : Fin 8, b[k] = if k.val = m.regs.bsel.toNat % 8 then d else m.regs.br[k])

/-- R179, R202, R226: the mirroring writes of SCN and CYC. -/
def Obligations.MirroringWritesSelectMode : Prop :=
  ∀ (s : State) (m : Instance) (a : Addr) (d : Byte), m.Configured →
    (Accepts s m (.scnMirr a d) → exec (.scnMirr a d) s = .next (s.answer
      (m.update fun r => { r with mirr :=
        if m.cfg.initMirr = .fourScreen then r.mirr
        else if d.toNat % 2 = 0 then .vertical else .horizontal }) .nothing)) ∧
    (Accepts s m (.cycMirr a d) → exec (.cycMirr a d) s = .next (s.answer
      (m.update fun r => { r with mirr :=
        if m.cfg.initMirr = .fourScreen then r.mirr
        else match d.toNat / 4 % 4 with
          | 0 => .vertical
          | 1 => .horizontal
          | 2 => .singleLow
          | _ => .singleHigh }) .nothing))

/-- R175: from a reload request, or from a counter at zero, with latch N, strobe k of the first N + 1
leaves the counter at N + 1 - k and pending clear but for the last, which sets it; strobe N + 2
reloads the counter and pending stays. -/
def Obligations.ScanlineInterruptTiming : Prop :=
  ∀ (s : State) (m : Instance) (n : Nat), Accepts s m .scanScn → n = m.regs.irq.latch.toNat →
    m.regs.irq.counter = 0 ∨ m.regs.irq.reload = true → m.regs.irq.enabled = true →
    m.regs.irq.pending = false →
    (∀ k, 1 ≤ k → k ≤ n + 1 → ∃ t u, runRepeat .scanScn k s = .next t ∧ t.inst = some u ∧
      u.regs.irq.counter.toNat = n + 1 - k ∧ u.regs.irq.pending = decide (k = n + 1)) ∧
    (∃ t u, runRepeat .scanScn (n + 2) s = .next t ∧ t.inst = some u ∧
      u.regs.irq.counter.toNat = n ∧ u.regs.irq.pending = true)

/-- R183: pending, once set, stays set under every operation but the acknowledge writes (and RESTORE,
which replaces the state, and UNLOAD, which ends it). -/
def Obligations.PendingIsSticky : Prop :=
  ∀ (s t : State) (m : Instance) (i : Instr), s.inst = some m → m.regs.irq.pending = true →
    exec i s = .next t → (∀ a d, i ≠ .scnDisable a d) → (∀ a d, i ≠ .cycAck a d) →
    i ≠ .restore → i ≠ .unload → ∃ u, t.inst = some u ∧ u.regs.irq.pending = true

/-- R262, R232: pending becomes set only in a strobe of SCN or a tick of CYC, and only while enabled
(or by RESTORE, in those two families, from a blob that has it set). In FIX, DSC, SER and MUX nothing
raises it: `IRQ` is no part of the `S` in their blobs (R244). -/
def Obligations.PendingIsRaisedOnlyWhenEnabled : Prop :=
  ∀ (s t : State) (m u : Instance) (i : Instr), s.inst = some m → m.regs.irq.pending = false →
    exec i s = .next t → t.inst = some u → u.regs.irq.pending = true →
    (m.family = .scn ∨ m.family = .cyc) ∧
      (i = .restore ∧ s.operand.blob.regs.irq.pending = true ∨
        m.regs.irq.enabled = true ∧
          ((i = .scanScn ∧ m.family = .scn ∧ u.regs.irq.counter = 0) ∨
            (i = .clkCyc ∧ m.family = .cyc ∧ m.regs.irq.counter = 0xFF)))

/-! ### Family CYC -/

/-- R190, R191: CLK.CYC. -/
def Obligations.CycleTickCounts : Prop :=
  ∀ (s : State) (m : Instance) (counts : Bool), Accepts s m .clkCyc →
    counts = (m.regs.irq.mode || decide (m.regs.irq.prescaler ≤ 1)) →
    exec .clkCyc s = .next (s.answer (m.update fun r => { r with irq := { r.irq with
      prescaler := if r.irq.mode = true then r.irq.prescaler
        else if r.irq.prescaler ≤ 1 then m.cfg.prescalerReload else r.irq.prescaler - 1
      counter := if counts = true then
          (if r.irq.counter = 0xFF then r.irq.latch else r.irq.counter + 1)
        else r.irq.counter
      pending := r.irq.pending || (counts && r.irq.counter == 0xFF && r.irq.enabled) } })
      .nothing)

/-- R192, R193, R194: the three counter writes of CYC. -/
def Obligations.CycleCounterWrites : Prop :=
  ∀ (s : State) (m : Instance) (a : Addr) (d : Byte), m.Configured →
    (Accepts s m (.cycLatch a d) → exec (.cycLatch a d) s = .next (s.answer
      (m.update fun r => { r with irq := { r.irq with latch := d } }) .nothing)) ∧
    (Accepts s m (.cycCtrl a d) → exec (.cycCtrl a d) s = .next (s.answer
      (m.update fun r => { r with irq := { r.irq with
        rearm := d.getLsbD 0
        enabled := d.getLsbD 1
        mode := d.getLsbD 2
        counter := if d.getLsbD 1 = true then r.irq.latch else r.irq.counter
        prescaler := if d.getLsbD 1 = true then m.cfg.prescalerReload else r.irq.prescaler } })
      .nothing)) ∧
    (Accepts s m (.cycAck a d) → exec (.cycAck a d) s = .next (s.answer
      (m.update fun r => { r with irq := { r.irq with pending := false, enabled := r.irq.rearm } })
      .nothing))

/-- R198, R199, R200, R203: the bank writes of CYC. -/
def Obligations.CycleBankWrites : Prop :=
  ∀ (s : State) (m : Instance) (a : Addr) (d : Byte), m.Configured →
    (Accepts s m (.cycPrg16 a d) → exec (.cycPrg16 a d) s = .next (s.answer
      (m.update fun r => { r with p16 := BitVec.ofNat 4 d.toNat }) .nothing)) ∧
    (Accepts s m (.cycPrg8 a d) → exec (.cycPrg8 a d) s = .next (s.answer
      (m.update fun r => { r with p8 := BitVec.ofNat 5 d.toNat }) .nothing)) ∧
    (Accepts s m (.cycChrlo a d) → ∃ v, exec (.cycChrlo a d) s = .next (s.answer
        (m.update fun r => { r with cr := v }) .nothing) ∧
      ∀ k : Fin 8, v[k] = if k.val = a.toNat % 4 then d else m.regs.cr[k]) ∧
    (Accepts s m (.cycChrhi a d) → ∃ v, exec (.cycChrhi a d) s = .next (s.answer
        (m.update fun r => { r with cr := v }) .nothing) ∧
      ∀ k : Fin 8, v[k] = if k.val = 4 + a.toNat % 4 then d else m.regs.cr[k])

/-- R195, cycle mode: after a control write that arms the counter in cycle mode with latch L, tick k
leaves the counter at L + k modulo the period 256 - L, and pending first becomes set on tick
256 - L. -/
def Obligations.CycleModeInterruptTiming : Prop :=
  ∀ (s : State) (m : Instance) (a : Addr) (d : Byte) (l : Nat), Accepts s m (.cycCtrl a d) →
    m.Configured → d.getLsbD 1 = true → d.getLsbD 2 = true → m.regs.irq.pending = false →
    l = m.regs.irq.latch.toNat →
    ∃ t, exec (.cycCtrl a d) s = .next t ∧
      ∀ k, ∃ t' u, runRepeat .clkCyc k t = .next t' ∧ t'.inst = some u ∧
        u.regs.irq.counter.toNat = l + k % (256 - l) ∧
        u.regs.irq.pending = decide (256 - l ≤ k)

/-- R195, scanline-approximation mode: each count takes `PRESCALER_RELOAD` ticks, and pending first
becomes set on tick (256 - L) * `PRESCALER_RELOAD`. -/
def Obligations.ScanlineModeInterruptTiming : Prop :=
  ∀ (s : State) (m : Instance) (a : Addr) (d : Byte) (l p : Nat), Accepts s m (.cycCtrl a d) →
    m.Configured → d.getLsbD 1 = true → d.getLsbD 2 = false → m.regs.irq.pending = false →
    l = m.regs.irq.latch.toNat → p = m.cfg.prescalerReload →
    ∃ t, exec (.cycCtrl a d) s = .next t ∧
      ∀ k, ∃ t' u, runRepeat .clkCyc k t = .next t' ∧ t'.inst = some u ∧
        u.regs.irq.prescaler = p - k % p ∧
        u.regs.irq.counter.toNat = l + k / p % (256 - l) ∧
        u.regs.irq.pending = decide ((256 - l) * p ≤ k)

/-! ### Family MUX -/

/-- R210: MUX.COUNT. -/
def Obligations.ChannelCountWriteRestartsCycle : Prop :=
  ∀ (s : State) (m : Instance) (a : Addr) (d : Byte), Accepts s m (.muxCount a d) →
    exec (.muxCount a d) s = .next (s.answer (m.update fun r => { r with ch := { r.ch with
      count := BitVec.ofNat 3 (d.toNat / 16)
      cur := BitVec.ofNat 3 (d.toNat / 16) } }) .nothing)

/-- R211: CLK.MUX. -/
def Obligations.ChannelTickServesOneChannel : Prop :=
  ∀ (s : State) (m : Instance), Accepts s m .clkMux →
    exec .clkMux s =
      if m.regs.ch.div + 1 = m.cfg.channelDivisor then
        .next (s.answer (m.update fun r => { r with ch := { r.ch with
          div := 0
          cur := if r.ch.cur = 0 then r.ch.count else r.ch.cur - 1 } })
          (.service m.regs.ch.cur))
      else
        .next (s.answer (m.update fun r => { r with ch := { r.ch with div := r.ch.div + 1 } })
          .nothing)

/-- R214 to R217: the bank writes of MUX. -/
def Obligations.MuxBankWrites : Prop :=
  ∀ (s : State) (m : Instance) (a : Addr) (d : Byte), m.Configured →
    (Accepts s m (.muxChr a d) → ∃ v, exec (.muxChr a d) s = .next (s.answer
        (m.update fun r => { r with cr := v }) .nothing) ∧
      ∀ k : Fin 8, v[k] = if k.val = a.toNat / 2048 % 8 then d else m.regs.cr[k]) ∧
    (∀ (i : Instr) (n : Fin 3),
      (i = .muxPrg0 a d ∧ n = 0) ∨ (i = .muxPrg1 a d ∧ n = 1) ∨ (i = .muxPrg2 a d ∧ n = 2) →
      Accepts s m i → ∃ p, exec i s = .next (s.answer
          (m.update fun r => { r with mp := p }) .nothing) ∧
        ∀ k : Fin 3, p[k] = if k = n then BitVec.ofNat 6 d.toNat else m.regs.mp[k])

/-- R212: after a count write with value c and the divider at v, tick n serves a channel exactly when
v + n is a multiple of `CHANNEL_DIVISOR`, and the services select c, c-1, ..., 0, c, ... in
order. -/
def Obligations.ChannelServiceSequence : Prop :=
  ∀ (s : State) (m : Instance) (a : Addr) (d : Byte) (c v dv : Nat), Accepts s m (.muxCount a d) →
    c = d.toNat / 16 % 8 → v = m.regs.ch.div → dv = m.cfg.channelDivisor → v < dv →
    ∃ t, exec (.muxCount a d) s = .next t ∧
      ∀ n, 1 ≤ n → ∃ u, runRepeat .clkMux n t = .next u ∧
        u.out = if (v + n) % dv = 0 then
            .service (BitVec.ofNat 3 (c - ((v + n) / dv - 1) % (c + 1)))
          else .nothing

/-! ### Mirroring and queries -/

/-- R227, R226: on a four-screen cartridge every operation but UNLOAD, RESTORE among them, leaves the
mode four-screen, and INIT starts it so; on any other cartridge no operation makes it four-screen but
RESTORE, in SCN and CYC, of a blob that is. What RESTORE makes of the mode of another cartridge's blob
is DEDUCED (log entry 5). -/
def Obligations.FourScreenIsLocked : Prop :=
  ∀ (s t : State) (u : Instance) (i : Instr), exec i s = .next t → t.inst = some u →
    (u.cfg.initMirr = .fourScreen → (∀ m, s.inst = some m → m.regs.mirr = .fourScreen) →
      u.regs.mirr = .fourScreen) ∧
    (u.cfg.initMirr ≠ .fourScreen → u.regs.mirr = .fourScreen →
      (∃ m, s.inst = some m ∧ m.regs.mirr = .fourScreen) ∨
      i = .restore ∧ s.operand.blob.regs.mirr = .fourScreen ∧ (u.family = .scn ∨ u.family = .cyc))

/-- R225: the mode changes only in SER, SCN and CYC, on a cartridge that is not four-screen, and through
their mirroring writes or through RESTORE; to four-screen only through a RESTORE in SCN or CYC of a blob
that is. In FIX, DSC and MUX nothing changes it: RESTORE, from a state with the invariant, leaves the
mode that is there (DEDUCED, log entry 5). -/
def Obligations.OnlyMirroringWritesChangeMode : Prop :=
  ∀ (s t : State) (m u : Instance) (i : Instr), s.inst = some m → (i = .restore → m.Inv) →
    exec i s = .next t → t.inst = some u → u.regs.mirr ≠ m.regs.mirr →
    m.cfg.initMirr ≠ .fourScreen ∧
      (m.family = .ser ∨ m.family = .scn ∨ m.family = .cyc) ∧
      (u.regs.mirr = .fourScreen →
        i = .restore ∧ m.family ≠ .ser ∧ s.operand.blob.regs.mirr = .fourScreen) ∧
      (i = .restore ∨ (∃ a d, i = .serSh0 a d ∧ m.regs.sr.cnt.val = 4) ∨
        (∃ a d, i = .scnMirr a d) ∨ (∃ a d, i = .cycMirr a d))

/-- R230, R231: QMIR and QIRQ. -/
def Obligations.QueriesReportModeAndPending : Prop :=
  ∀ (s : State) (m : Instance), s.inst = some m →
    exec .qmir s = .next (s.answer m (.mirr m.regs.mirr)) ∧
    exec .qirq s = .next (s.answer m (.irq m.regs.irq.pending))

/-- R228: the page function, from address bits 10 and 11. -/
def Obligations.NametablePageOfMode : Prop :=
  ∀ a : Addr,
    ntPage .horizontal a = a.toNat / 2048 % 2 ∧
    ntPage .vertical a = a.toNat / 1024 % 2 ∧
    ntPage .singleLow a = 0 ∧
    ntPage .singleHigh a = 1 ∧
    ntPage .fourScreen a = a.toNat / 1024 % 4

/-! ### Host operations -/

/-- R43: INIT on a configuration it accepts leaves every element of the state at its load value. -/
def Obligations.InitLeavesTheLoadValues : Prop :=
  ∀ (s : State) (c : Cfg) (f : Family), s.inst = none → c = s.operand.cfg →
    familyOf c.mapper = some f → cfgOk c = true →
    ∃ m, exec .init s = .next (s.answer m .accepted) ∧ m.cfg = c ∧ m.family = f ∧
      m.regs = {
        mirr := c.initMirr
        prgRam := if c.hasPrgRam = true then c.prgRamInit else []
        chrRam := if c.chrBanks = 0 then c.chrRamInit else []
        sr := ⟨0, 0⟩
        ctrl := match c.initMirr with
          | .singleLow => 0x0C
          | .singleHigh => 0x0D
          | .vertical => 0x0E
          | .horizontal => 0x0F
          | .fourScreen => 0x0C
        chr0 := 0
        chr1 := 0
        prg := 0
        bank := 0
        bsel := 0
        br := ⟨#[0, 0, 0, 0, 0, 0, 0, 0], rfl⟩
        p16 := 0
        p8 := 0
        cr := ⟨#[0, 0, 0, 0, 0, 0, 0, 0], rfl⟩
        mp := ⟨#[0, 0, 0], rfl⟩
        irq := {
          latch := 0
          counter := 0
          enabled := false
          pending := false
          reload := false
          rearm := false
          mode := false
          prescaler := c.prescalerReload }
        ch := ⟨0, 0, 0⟩ }

/-- R240, R241, R265: INIT's checks in their order, with the mapper table. That an array's bytes are
listed in canonical form is the model's own condition (log entry 4). -/
def Obligations.InitChecksInOrder : Prop :=
  (∀ n f, familyOf n = some f ↔
    (n, f) ∈ [(0, Family.fix), (1, .ser), (2, .dsc), (4, .scn), (19, .mux), (24, .cyc)]) ∧
  ∀ (s : State) (c : Cfg), c = s.operand.cfg →
    if s.inst ≠ none then exec .init s = .refused .alreadyLoaded
    else if familyOf c.mapper = none then exec .init s = .refused (.unknownMapper c.mapper)
    else if c.prgBanks = 0 ∨ c.prgRom.size ≠ c.prgBanks * 16384
        ∨ c.chrRom.size ≠ c.chrBanks * 8192 ∨ c.prescalerReload = 0 ∨ c.channelDivisor = 0 then
      exec .init s = .refused .badConfig
    else
      Mem.wf (c.prgBanks * 16384) c.prgRom.cells = true →
      Mem.wf (c.chrBanks * 8192) c.chrRom.cells = true →
      Mem.wf 8192 c.prgRamInit = true → Mem.wf 8192 c.chrRamInit = true →
      ∃ t, exec .init s = .next t ∧ t.inst ≠ none

/-- R141, R142: the conflict policy INIT resolves. -/
def Obligations.InitResolvesConflictPolicy : Prop :=
  ∀ (s t : State), exec .init s = .next t → ∃ m, t.inst = some m ∧
    (m.family ≠ .dsc → m.conflict = false) ∧
    (m.family = .dsc → m.conflict =
      if m.cfg.submapper = some 1 then false
      else if m.cfg.submapper = some 2 then true
      else m.cfg.conflictWhenUnspecified)

/-- SAVE returns all of the state and changes none of it; UNLOAD ends the instance (from R243, R246).
The blob's version tag without a number is the model's choice (DESIGN CHOICE, log entry 7), and its two
RAM flags, which R243 does not give, are DEDUCED from R245 (log entry 8). -/
def Obligations.SaveCapturesAndUnloadDiscards : Prop :=
  ∀ (s : State) (m : Instance), s.inst = some m →
    exec .save s = .next (s.answer m (.blob {
      version := .current
      family := m.family
      hasPrgRam := m.cfg.hasPrgRam
      hasChrRam := decide (m.cfg.chrBanks = 0)
      regs := m.regs })) ∧
    exec .unload s = .next { s with inst := none, out := .nothing }

/-- RESTORE refuses a blob of another version, family or RAM shape and no other (R245, R260). Of every
other it takes `S`: the mode, both RAM regions and every element the family uses (R244, R245); no other
element of the record is in `S`, and none changes (R23, R35). The mode is that of the blob, but for a blob
of another cartridge where R227, R225 or R41 (g) gives this one a mode (DEDUCED, log entry 5); a divider or
prescaler outside this cartridge's range is a free value of that range, and this holds for every value of
it (DESIGN CHOICE, log entry 17). The version tag, the two RAM flags and the canonical listing of RAM are
the model's (log entries 7, 8 and 4). -/
def Obligations.RestoreReplacesStateOrRefuses : Prop :=
  ∀ (s : State) (m : Instance) (b : Blob) (q : Regs), s.inst = some m → b = s.operand.blob →
    q = b.regs →
    (b.version ≠ .current ∨ b.family ≠ m.family ∨ b.hasPrgRam ≠ m.cfg.hasPrgRam
        ∨ b.hasChrRam ≠ decide (m.cfg.chrBanks = 0) ∨ ¬ RamInv m.cfg q →
      exec .restore s = .refused .foreignBlob) ∧
    (b.version = .current → b.family = m.family → b.hasPrgRam = m.cfg.hasPrgRam →
      b.hasChrRam = decide (m.cfg.chrBanks = 0) → RamInv m.cfg q →
      exec .restore s = .next (s.answer (m.update fun r => {
        mirr :=
          if m.cfg.initMirr = .fourScreen then .fourScreen
          else match m.family with
            | .fix | .dsc | .mux => m.cfg.initMirr
            | .ser => serMirr q.ctrl
            | .scn | .cyc => q.mirr
        prgRam := q.prgRam
        chrRam := q.chrRam
        sr := if m.family = .ser then q.sr else r.sr
        ctrl := if m.family = .ser then q.ctrl else r.ctrl
        chr0 := if m.family = .ser then q.chr0 else r.chr0
        chr1 := if m.family = .ser then q.chr1 else r.chr1
        prg := if m.family = .ser then q.prg else r.prg
        bank := if m.family = .dsc then q.bank else r.bank
        bsel := if m.family = .scn then q.bsel else r.bsel
        br := if m.family = .scn then q.br else r.br
        p16 := if m.family = .cyc then q.p16 else r.p16
        p8 := if m.family = .cyc then q.p8 else r.p8
        cr := if m.family = .cyc ∨ m.family = .mux then q.cr else r.cr
        mp := if m.family = .mux then q.mp else r.mp
        irq := match m.family with
          | .scn => { q.irq with
              rearm := r.irq.rearm, mode := r.irq.mode, prescaler := r.irq.prescaler }
          | .cyc => { q.irq with
              reload := r.irq.reload
              prescaler :=
                if q.irq.prescaler ≤ m.cfg.prescalerReload then q.irq.prescaler
                else Config.freePrescaler m.cfg.prescalerReload q.irq.prescaler
                  % (m.cfg.prescalerReload + 1) }
          | .fix | .dsc | .ser | .mux => r.irq
        ch := if m.family = .mux then { q.ch with
            div :=
              if q.ch.div < m.cfg.channelDivisor then q.ch.div
              else Config.freeDivider m.cfg.channelDivisor q.ch.div % m.cfg.channelDivisor }
          else r.ch }) .accepted))

/-- From R247: a blob saved at `s` brings back its state into any later state `w` of the same instance,
and from there every sequence of operations gives the same outputs and the same final instance as from
`s`. `observe` ends a run at its first refusal (DEDUCED, log entry 11). The invariant, which every
reachable state has, is what makes the mode and the elements RESTORE leaves those of the blob (DEDUCED,
log entry 5). -/
def Obligations.SaveRestoreRoundTrip : Prop :=
  ∀ (s w : State) (m m' : Instance), s.inst = some m → m.Inv → w.inst = some m' → m'.Inv →
    m'.cfg = m.cfg →
    ∃ u b v, exec .save s = .next u ∧ u.out = .blob b ∧
      exec .restore { w with operand := { w.operand with blob := b } } = .next v ∧
      v.inst = s.inst ∧
      ∀ reqs : List Request,
        observe reqs.length { v with requests := reqs }
          = observe reqs.length { s with requests := reqs }

/-! ### Invariants -/

/-- R41, R43: the invariant holds of the instance INIT leaves. -/
def Obligations.InvariantHoldsAfterLoad : Prop :=
  ∀ (s t : State), exec .init s = .next t → ∃ m, t.inst = some m ∧ m.Inv

/-- R41 with R23, R225, R227, R232: every step keeps the invariant of the loaded instance, with any
cartridge's blob at a RESTORE so long as SAVE returned it and the host has not altered it (R249). What
RESTORE takes of another cartridge's blob is DEDUCED (log entry 5). -/
def Obligations.StepKeepsInvariant : Prop :=
  ∀ s t : State, s.Inv →
    (∀ r rest, s.requests = r :: rest →
      decode (s.inst.map Instance.family) r.word = .ok .restore → r.operand.blob.Saved) →
    step s = .next t → t.Inv

/-- Every step keeps memory in canonical form, whatever the host presents. The listing, and that INIT
and RESTORE refuse any other, is the model's choice (DESIGN CHOICE, log entry 4). -/
def Obligations.StepKeepsMemoryCanonical : Prop :=
  ∀ s t : State, s.RamOk → step s = .next t → t.RamOk

/-- R8, R39: the configuration, ROM contents among it, the family and the conflict policy stay as
they are until UNLOAD, and every step keeps the loaded instance as INIT configured it. -/
def Obligations.ConfigurationIsFixedUntilUnload : Prop :=
  (∀ (s t : State) (m : Instance) (i : Instr), s.inst = some m → exec i s = .next t →
    i ≠ .unload → ∃ u, t.inst = some u ∧ u.cfg = m.cfg ∧ u.family = m.family ∧
      u.conflict = m.conflict) ∧
  ∀ s t : State, s.Configured → step s = .next t → t.Configured

/-- R23, R35: the registers of the other families, and the elements of `IRQ` the loaded one does not
use, keep their values under every operation, RESTORE among them: they are no part of the `S` in a blob
(R244). -/
def Obligations.OtherFamiliesRegistersStay : Prop :=
  ∀ (s t : State) (m u : Instance) (i : Instr), s.inst = some m → exec i s = .next t →
    t.inst = some u → SameUnused m.family u.regs m.regs

/-- R177, R181, R182: SCN.BSEL stores its data byte, and in the state it leaves PM (data bit 6) swaps
`BR[6]` with the last bank but one between the windows at 0x8000 and 0xC000, and CM (data bit 7) swaps
the halves of the pattern region, where `BR[0]` and `BR[1]` drive pairs of 1 KiB windows and `BR[2]` to
`BR[5]` one window each: what PRG.RD and CHR.RD return there, at every address. -/
def Obligations.BankSelectModeBitsMoveWindows : Prop :=
  ∀ (s : State) (m : Instance) (a : Addr) (d : Byte) (n : Nat), Accepts s m (.scnBsel a d) →
    m.Configured → n = 2 * m.cfg.prgBanks →
    ∃ t u, exec (.scnBsel a d) s = .next t ∧ t = s.answer u .nothing ∧
      u = m.update (fun r => { r with bsel := d }) ∧
      (∀ (x : Addr) (sel : Nat), 0x8000 ≤ x.toNat →
        sel = (if x.toNat < 0xA000 then
            (if d.getLsbD 6 = true then n - 2 else m.regs.br[6].toNat)
          else if x.toNat < 0xC000 then m.regs.br[7].toNat
          else if x.toNat < 0xE000 then
            (if d.getLsbD 6 = true then m.regs.br[6].toNat else n - 2)
          else n - 1) →
        exec (.prgRd x) t = .next (t.answer u (.byte
          (m.cfg.prgRom.cells.read (sel % n * 8192 + x.toNat % 8192))))) ∧
      ∀ (x : Addr) (k sel off : Nat), k < 8 → k = x.toNat / 1024 →
        sel = (match (if d.getLsbD 7 = true then (k + 4) % 8 else k) with
          | 0 => m.regs.br[0].toNat / 2 * 2
          | 1 => m.regs.br[0].toNat / 2 * 2 + 1
          | 2 => m.regs.br[1].toNat / 2 * 2
          | 3 => m.regs.br[1].toNat / 2 * 2 + 1
          | 4 => m.regs.br[2].toNat
          | 5 => m.regs.br[3].toNat
          | 6 => m.regs.br[4].toNat
          | _ => m.regs.br[5].toNat) →
        off = sel % (if 0 < m.cfg.chrBanks then 8 * m.cfg.chrBanks else 8) * 1024
          + x.toNat % 1024 →
        exec (.chrRd x) t = .next (t.answer u (.byte
          (if 0 < m.cfg.chrBanks then m.cfg.chrRom.cells.read off else m.regs.chrRam.read off)))
end

