-- ==== Sys2Proof/Laws/Decode.lean ====
section
/-! SUPPORT. The fields of a packed word, and the address fields as arithmetic. -/

namespace Sys2Proof

theorem toNat_pack (op : BusOp) (a : Addr) (d : Byte) :
    (pack op a d).toNat = op.code.toNat * 2 ^ 24 + a.toNat * 2 ^ 8 + d.toNat := by
  have ha := a.isLt
  have hd := d.isLt
  unfold pack
  rw [BitVec.toNat_append, ← Nat.shiftLeft_add_eq_or_of_lt hd, BitVec.toNat_append,
    ← Nat.shiftLeft_add_eq_or_of_lt ha, Nat.shiftLeft_eq, Nat.shiftLeft_eq]
  ring

@[simp] theorem opField_pack (op : BusOp) (a : Addr) (d : Byte) :
    opField (pack op a d) = op.code := by
  apply BitVec.eq_of_toNat_eq
  have := toNat_pack op a d
  have ha := a.isLt
  have hd := d.isLt
  have ho := op.code.isLt
  simp only [opField, BitVec.extractLsb'_toNat, Nat.shiftRight_eq_div_pow, this]
  omega

@[simp] theorem addrField_pack (op : BusOp) (a : Addr) (d : Byte) :
    addrField (pack op a d) = a := by
  apply BitVec.eq_of_toNat_eq
  have := toNat_pack op a d
  have ha := a.isLt
  have hd := d.isLt
  simp only [addrField, BitVec.extractLsb'_toNat, Nat.shiftRight_eq_div_pow, this]
  omega

@[simp] theorem dataField_pack (op : BusOp) (a : Addr) (d : Byte) :
    dataField (pack op a d) = d := by
  apply BitVec.eq_of_toNat_eq
  have := toNat_pack op a d
  have hd := d.isLt
  simp only [dataField, BitVec.extractLsb'_toNat, Nat.shiftRight_eq_div_pow, this]
  omega

@[simp] theorem ofCode_code (op : BusOp) : BusOp.ofCode op.code.toNat = some op := by
  cases op <;> rfl

/-- The op codes are the numbers 0 to 11 (R91). -/
theorem ofCode_eq_some {n : Nat} {op : BusOp} (h : BusOp.ofCode n = some op) :
    op.code.toNat = n := by
  unfold BusOp.ofCode at h
  split at h <;> cases h <;> rfl

theorem ofCode_eq_none {n : Nat} : BusOp.ofCode n = none ↔ 0x0B < n := by
  rcases Nat.lt_or_ge 0x0B n with h | h
  · obtain ⟨k, rfl⟩ := Nat.exists_eq_add_of_le' h
    exact ⟨fun _ => h, fun _ => rfl⟩
  · interval_cases n <;> simp [BusOp.ofCode]

/-- A word is its three fields put together. -/
theorem pack_fields {w : Word} {op : BusOp} (h : op.code = opField w) :
    pack op (addrField w) (dataField w) = w := by
  apply BitVec.eq_of_toNat_eq
  have hw := w.isLt
  rw [toNat_pack, h]
  simp only [opField, addrField, dataField, BitVec.extractLsb'_toNat, Nat.shiftRight_eq_div_pow]
  omega

theorem toNat_quarter (a : Addr) : a.quarter.toNat = a.toNat / 8192 % 4 := by
  simp [Addr.quarter, Nat.shiftRight_eq_div_pow]

theorem toNat_a2 (a : Addr) : a.a2.toNat = a.toNat % 4 := by simp [Addr.a2]

theorem toNat_page (a : Addr) : a.page.toNat = a.toNat / 4096 := by
  have := a.isLt
  simp [Addr.page, Nat.shiftRight_eq_div_pow]
  omega

theorem toNat_block (a : Addr) : a.block.toNat = a.toNat / 2048 := by
  have := a.isLt
  simp [Addr.block, Nat.shiftRight_eq_div_pow]
  omega

theorem odd_iff (a : Addr) : a.odd = decide (a.toNat % 2 = 1) := by
  simp [Addr.odd, BitVec.getLsbD, Nat.testBit_zero]

theorem even_iff (a : Addr) : a.even = decide (a.toNat % 2 = 0) := by
  simp [Addr.even, beq_eq_decide]

theorem within_iff (a : Addr) (lo hi : Nat) :
    a.within lo hi = true ↔ lo ≤ a.toNat ∧ a.toNat ≤ hi := by
  simp [Addr.within]

theorem shifts_eq (d : Byte) : d.shifts = !d.rst := rfl

end Sys2Proof
end

