-- ==== Sys2Proof/Laws/State.lean ====
section
/-! SUPPORT. What each named update of the state leaves in each field. -/

namespace Sys2Proof.Machine

@[simp] theorem Instance.update_cfg (m : Instance) (f : Regs → Regs) : (m.update f).cfg = m.cfg := rfl
@[simp] theorem Instance.update_family (m : Instance) (f : Regs → Regs) :
    (m.update f).family = m.family := rfl
@[simp] theorem Instance.update_conflict (m : Instance) (f : Regs → Regs) :
    (m.update f).conflict = m.conflict := rfl
@[simp] theorem Instance.update_regs (m : Instance) (f : Regs → Regs) :
    (m.update f).regs = f m.regs := rfl
@[simp] theorem Instance.update_self (m : Instance) : (m.update fun r => r) = m := rfl

@[simp] theorem State.answer_inst (s : State) (m : Instance) (o : Output) :
    (s.answer m o).inst = some m := rfl
@[simp] theorem State.answer_operand (s : State) (m : Instance) (o : Output) :
    (s.answer m o).operand = s.operand := rfl
@[simp] theorem State.answer_requests (s : State) (m : Instance) (o : Output) :
    (s.answer m o).requests = s.requests := rfl
@[simp] theorem State.answer_out (s : State) (m : Instance) (o : Output) :
    (s.answer m o).out = o := rfl

@[simp] theorem State.takeRequest_inst (s : State) (r : Request) (rest : List Request) :
    (s.takeRequest r rest).inst = s.inst := rfl
@[simp] theorem State.takeRequest_operand (s : State) (r : Request) (rest : List Request) :
    (s.takeRequest r rest).operand = r.operand := rfl
@[simp] theorem State.takeRequest_requests (s : State) (r : Request) (rest : List Request) :
    (s.takeRequest r rest).requests = rest := rfl
@[simp] theorem State.takeRequest_out (s : State) (r : Request) (rest : List Request) :
    (s.takeRequest r rest).out = s.out := rfl

@[simp] theorem State.phase_none (s : State) (h : s.inst = none) : s.phase = none := by
  simp [State.phase, h]
@[simp] theorem State.phase_some (s : State) (m : Instance) (h : s.inst = some m) :
    s.phase = some m.family := by simp [State.phase, h]

/-! `set_mirr` writes the mode and nothing else. -/

@[simp] theorem setMirr_mirr (m : Instance) (v : Mirr) (r : Regs) :
    (setMirr m v r).mirr = if m.cfg.initMirr = .fourScreen then r.mirr else v := by
  unfold setMirr; split <;> rfl
@[simp] theorem setMirr_prgRam (m : Instance) (v : Mirr) (r : Regs) :
    (setMirr m v r).prgRam = r.prgRam := by unfold setMirr; split <;> rfl
@[simp] theorem setMirr_chrRam (m : Instance) (v : Mirr) (r : Regs) :
    (setMirr m v r).chrRam = r.chrRam := by unfold setMirr; split <;> rfl
@[simp] theorem setMirr_sr (m : Instance) (v : Mirr) (r : Regs) :
    (setMirr m v r).sr = r.sr := by unfold setMirr; split <;> rfl
@[simp] theorem setMirr_ctrl (m : Instance) (v : Mirr) (r : Regs) :
    (setMirr m v r).ctrl = r.ctrl := by unfold setMirr; split <;> rfl
@[simp] theorem setMirr_chr0 (m : Instance) (v : Mirr) (r : Regs) :
    (setMirr m v r).chr0 = r.chr0 := by unfold setMirr; split <;> rfl
@[simp] theorem setMirr_chr1 (m : Instance) (v : Mirr) (r : Regs) :
    (setMirr m v r).chr1 = r.chr1 := by unfold setMirr; split <;> rfl
@[simp] theorem setMirr_prg (m : Instance) (v : Mirr) (r : Regs) :
    (setMirr m v r).prg = r.prg := by unfold setMirr; split <;> rfl
@[simp] theorem setMirr_bank (m : Instance) (v : Mirr) (r : Regs) :
    (setMirr m v r).bank = r.bank := by unfold setMirr; split <;> rfl
@[simp] theorem setMirr_bsel (m : Instance) (v : Mirr) (r : Regs) :
    (setMirr m v r).bsel = r.bsel := by unfold setMirr; split <;> rfl
@[simp] theorem setMirr_br (m : Instance) (v : Mirr) (r : Regs) :
    (setMirr m v r).br = r.br := by unfold setMirr; split <;> rfl
@[simp] theorem setMirr_p16 (m : Instance) (v : Mirr) (r : Regs) :
    (setMirr m v r).p16 = r.p16 := by unfold setMirr; split <;> rfl
@[simp] theorem setMirr_p8 (m : Instance) (v : Mirr) (r : Regs) :
    (setMirr m v r).p8 = r.p8 := by unfold setMirr; split <;> rfl
@[simp] theorem setMirr_cr (m : Instance) (v : Mirr) (r : Regs) :
    (setMirr m v r).cr = r.cr := by unfold setMirr; split <;> rfl
@[simp] theorem setMirr_mp (m : Instance) (v : Mirr) (r : Regs) :
    (setMirr m v r).mp = r.mp := by unfold setMirr; split <;> rfl
@[simp] theorem setMirr_irq (m : Instance) (v : Mirr) (r : Regs) :
    (setMirr m v r).irq = r.irq := by unfold setMirr; split <;> rfl
@[simp] theorem setMirr_ch (m : Instance) (v : Mirr) (r : Regs) :
    (setMirr m v r).ch = r.ch := by unfold setMirr; split <;> rfl

end Sys2Proof.Machine
end

