-- ==== Sys2Proof/Laws/Ops.lean ====
section
/-! SUPPORT. What the shared operations can do: how an operation of a loaded instance completes, and
what follows from its having completed. -/

namespace Sys2Proof.Machine

/-- An operation completes when the loaded family has it. -/
theorem perform_next {i : Instr} {s : State} {m : Instance} (h : s.inst = some m)
    (hf : i.inFamily m.family = true) (k : Instance → Instance × Output) :
    perform i s k = .next (s.answer (k m).1 (k m).2) := by
  simp [perform, h, hf]

theorem command_next {i : Instr} {s : State} {m : Instance} (h : s.inst = some m)
    (hf : i.inFamily m.family = true) (f : Instance → Regs → Regs) :
    command i s f = .next (s.answer (m.update (f m)) .nothing) :=
  perform_next h hf _

theorem query_next {i : Instr} {s : State} {m : Instance} (h : s.inst = some m)
    (hf : i.inFamily m.family = true) (f : Instance → Output) :
    query i s f = .next (s.answer m (f m)) :=
  perform_next h hf _

/-- Everything a completed operation can have done. -/
theorem perform_cases {i : Instr} {s t : State} {k : Instance → Instance × Output}
    (h : perform i s k = .next t) :
    ∃ m, s.inst = some m ∧ i.inFamily m.family = true ∧ t = s.answer (k m).1 (k m).2 := by
  unfold perform at h
  split at h
  · cases h
  · split at h
    · cases h; exact ⟨_, ‹_›, ‹_›, rfl⟩
    · cases h

theorem command_cases {i : Instr} {s t : State} {f : Instance → Regs → Regs}
    (h : command i s f = .next t) :
    ∃ m, s.inst = some m ∧ i.inFamily m.family = true ∧
      t = s.answer (m.update (f m)) .nothing :=
  perform_cases h

/-- A command whose change, made again, changes nothing leaves the state of once. -/
theorem command_twice {i : Instr} {s t : State} {m : Instance} {f : Instance → Regs → Regs}
    (h : s.inst = some m) (he : command i s f = .next t)
    (hf : f (m.update (f m)) (f m m.regs) = f m m.regs) : command i t f = .next t := by
  obtain ⟨m', hm, hi, rfl⟩ := command_cases he
  cases hm.symm.trans h
  rw [command_next (m := m.update (f m)) rfl hi]
  simp only [State.answer, Instance.update] at hf ⊢
  rw [hf]

theorem query_cases {i : Instr} {s t : State} {f : Instance → Output}
    (h : query i s f = .next t) :
    ∃ m, s.inst = some m ∧ i.inFamily m.family = true ∧ t = s.answer m (f m) :=
  perform_cases h

/-- An operation of a loaded instance is refused on an unloaded block (R94). -/
theorem perform_unloaded {i : Instr} {s : State} (h : s.inst = none)
    (k : Instance → Instance × Output) : perform i s k = .refused .notLoaded := by
  simp [perform, h]

end Sys2Proof.Machine
end

