-- ==== Sys2Proof/Laws/Exec.lean ====
section
/-! SUPPORT. What an operation of a loaded instance, INIT and a step can have done. -/

namespace Sys2Proof.Machine

/-- A completed operation of a loaded instance, UNLOAD apart, changes registers and output only. -/
theorem exec_loaded {i : Instr} {s t : State} {m : Instance} (h : s.inst = some m)
    (he : exec i s = .next t) (hu : i ≠ .unload) :
    ∃ r o, t = s.answer (m.update fun _ => r) o := by
  cases i
  case unload => exact absurd rfl hu
  case init => simp [exec, execInit, h] at he
  case restore =>
    simp only [exec, execRestore, h] at he
    split at he
    · cases he; exact ⟨_, _, rfl⟩
    · cases he
  all_goals
    obtain ⟨m', hm, -, rfl⟩ := perform_cases he
    cases hm.symm.trans h
    exact ⟨_, _, rfl⟩

/-- A completed INIT constructed an instance of the mapper's family from a configuration that passes
the checks. -/
theorem exec_init {s t : State} (he : exec .init s = .next t) :
    ∃ f, s.inst = none ∧ familyOf s.operand.cfg.mapper = some f ∧ cfgOk s.operand.cfg = true ∧
      t = s.answer (loadInstance f s.operand.cfg) .accepted := by
  simp only [exec, execInit] at he
  split at he
  · cases he
  · split at he
    · cases he
    · split at he
      · cases he; exact ⟨_, ‹_›, ‹_›, ‹_›, rfl⟩
      · cases he

/-- A completed RESTORE took from a blob that fits what the loaded family uses. -/
theorem exec_restore {s t : State} (he : exec .restore s = .next t) :
    ∃ m, s.inst = some m ∧ blobFits m s.operand.blob = true ∧
      t = s.answer (m.update (restoreRegs m s.operand.blob.regs)) .accepted := by
  simp only [exec, execRestore] at he
  split at he
  · cases he
  · split at he
    · cases he; exact ⟨_, ‹_›, ‹_›, rfl⟩
    · cases he

/-- A completed UNLOAD left no instance. -/
theorem exec_unload {s t : State} (he : exec .unload s = .next t) :
    ∃ m, s.inst = some m ∧ t = { s with inst := none, out := .nothing } := by
  simp only [exec, execUnload] at he
  split at he
  · cases he
  · cases he; exact ⟨_, ‹_›, rfl⟩

/-- On an unloaded block only INIT completes (R94). -/
theorem exec_completed_unloaded {i : Instr} {s t : State} (h : s.inst = none)
    (he : exec i s = .next t) : i = .init := by
  cases i
  case init => rfl
  case restore => obtain ⟨m, hm, -⟩ := exec_restore he; simp [h] at hm
  case unload => obtain ⟨m, hm, -⟩ := exec_unload he; simp [h] at hm
  all_goals
    obtain ⟨m, hm, -⟩ := perform_cases he
    simp [h] at hm

/-- A completed step changed nothing, or is the completed operation of the first request. -/
theorem step_cases {s t : State} (h : step s = .next t) :
    (s.requests = [] ∧ t = s) ∨
    ∃ r rest i, s.requests = r :: rest ∧ decode s.phase r.word = .ok i ∧
      exec i (s.takeRequest r rest) = .next t := by
  unfold step at h
  split at h
  · cases h; exact .inl ⟨‹_›, rfl⟩
  · split at h
    · cases h
    · exact .inr ⟨_, _, _, ‹_›, ‹_›, h⟩

end Sys2Proof.Machine
end

