-- ==== Sys2Proof/Laws/Flags.lean ====
section
/-! SUPPORT. What the flag computations can do: the serial shift step, the two counters and the
channel scheduler, field by field. -/

namespace Sys2Proof.Machine

/-! ### The serial shift step -/

theorem serShift_collects {d : Byte} {load : BitVec 5 → Regs → Regs} {r : Regs}
    (h : r.sr.cnt.val < 4) :
    serShift d load r
      = { r with sr := ⟨r.sr.accept d, ⟨r.sr.cnt.val + 1, Nat.succ_lt_succ h⟩⟩ } := by
  have h1 : r.sr.cnt.val + 1 ≠ 5 := by omega
  have h2 : Fin.ofNat 5 (r.sr.cnt.val + 1) = ⟨r.sr.cnt.val + 1, Nat.succ_lt_succ h⟩ :=
    Fin.ext (Nat.mod_eq_of_lt (Nat.succ_lt_succ h))
  unfold serShift
  rw [if_neg h1, h2]

theorem serShift_loads {d : Byte} {load : BitVec 5 → Regs → Regs} {r : Regs}
    (h : r.sr.cnt.val = 4) :
    serShift d load r = { load (r.sr.accept d) r with sr := ⟨0, 0⟩ } := by
  simp [serShift, h]

@[simp] theorem serShift_mirr (d : Byte) (load : BitVec 5 → Regs → Regs) (r : Regs) :
    (serShift d load r).mirr
      = if r.sr.cnt.val = 4 then (load (r.sr.accept d) r).mirr else r.mirr := by
  by_cases h : r.sr.cnt.val = 4 <;> simp [serShift, h]
@[simp] theorem serShift_prgRam (d : Byte) (load : BitVec 5 → Regs → Regs) (r : Regs) :
    (serShift d load r).prgRam
      = if r.sr.cnt.val = 4 then (load (r.sr.accept d) r).prgRam else r.prgRam := by
  by_cases h : r.sr.cnt.val = 4 <;> simp [serShift, h]
@[simp] theorem serShift_chrRam (d : Byte) (load : BitVec 5 → Regs → Regs) (r : Regs) :
    (serShift d load r).chrRam
      = if r.sr.cnt.val = 4 then (load (r.sr.accept d) r).chrRam else r.chrRam := by
  by_cases h : r.sr.cnt.val = 4 <;> simp [serShift, h]
@[simp] theorem serShift_ctrl (d : Byte) (load : BitVec 5 → Regs → Regs) (r : Regs) :
    (serShift d load r).ctrl
      = if r.sr.cnt.val = 4 then (load (r.sr.accept d) r).ctrl else r.ctrl := by
  by_cases h : r.sr.cnt.val = 4 <;> simp [serShift, h]
@[simp] theorem serShift_chr0 (d : Byte) (load : BitVec 5 → Regs → Regs) (r : Regs) :
    (serShift d load r).chr0
      = if r.sr.cnt.val = 4 then (load (r.sr.accept d) r).chr0 else r.chr0 := by
  by_cases h : r.sr.cnt.val = 4 <;> simp [serShift, h]
@[simp] theorem serShift_chr1 (d : Byte) (load : BitVec 5 → Regs → Regs) (r : Regs) :
    (serShift d load r).chr1
      = if r.sr.cnt.val = 4 then (load (r.sr.accept d) r).chr1 else r.chr1 := by
  by_cases h : r.sr.cnt.val = 4 <;> simp [serShift, h]
@[simp] theorem serShift_prg (d : Byte) (load : BitVec 5 → Regs → Regs) (r : Regs) :
    (serShift d load r).prg
      = if r.sr.cnt.val = 4 then (load (r.sr.accept d) r).prg else r.prg := by
  by_cases h : r.sr.cnt.val = 4 <;> simp [serShift, h]
@[simp] theorem serShift_bank (d : Byte) (load : BitVec 5 → Regs → Regs) (r : Regs) :
    (serShift d load r).bank
      = if r.sr.cnt.val = 4 then (load (r.sr.accept d) r).bank else r.bank := by
  by_cases h : r.sr.cnt.val = 4 <;> simp [serShift, h]
@[simp] theorem serShift_bsel (d : Byte) (load : BitVec 5 → Regs → Regs) (r : Regs) :
    (serShift d load r).bsel
      = if r.sr.cnt.val = 4 then (load (r.sr.accept d) r).bsel else r.bsel := by
  by_cases h : r.sr.cnt.val = 4 <;> simp [serShift, h]
@[simp] theorem serShift_br (d : Byte) (load : BitVec 5 → Regs → Regs) (r : Regs) :
    (serShift d load r).br
      = if r.sr.cnt.val = 4 then (load (r.sr.accept d) r).br else r.br := by
  by_cases h : r.sr.cnt.val = 4 <;> simp [serShift, h]
@[simp] theorem serShift_p16 (d : Byte) (load : BitVec 5 → Regs → Regs) (r : Regs) :
    (serShift d load r).p16
      = if r.sr.cnt.val = 4 then (load (r.sr.accept d) r).p16 else r.p16 := by
  by_cases h : r.sr.cnt.val = 4 <;> simp [serShift, h]
@[simp] theorem serShift_p8 (d : Byte) (load : BitVec 5 → Regs → Regs) (r : Regs) :
    (serShift d load r).p8
      = if r.sr.cnt.val = 4 then (load (r.sr.accept d) r).p8 else r.p8 := by
  by_cases h : r.sr.cnt.val = 4 <;> simp [serShift, h]
@[simp] theorem serShift_cr (d : Byte) (load : BitVec 5 → Regs → Regs) (r : Regs) :
    (serShift d load r).cr
      = if r.sr.cnt.val = 4 then (load (r.sr.accept d) r).cr else r.cr := by
  by_cases h : r.sr.cnt.val = 4 <;> simp [serShift, h]
@[simp] theorem serShift_mp (d : Byte) (load : BitVec 5 → Regs → Regs) (r : Regs) :
    (serShift d load r).mp
      = if r.sr.cnt.val = 4 then (load (r.sr.accept d) r).mp else r.mp := by
  by_cases h : r.sr.cnt.val = 4 <;> simp [serShift, h]
@[simp] theorem serShift_irq (d : Byte) (load : BitVec 5 → Regs → Regs) (r : Regs) :
    (serShift d load r).irq
      = if r.sr.cnt.val = 4 then (load (r.sr.accept d) r).irq else r.irq := by
  by_cases h : r.sr.cnt.val = 4 <;> simp [serShift, h]
@[simp] theorem serShift_ch (d : Byte) (load : BitVec 5 → Regs → Regs) (r : Regs) :
    (serShift d load r).ch
      = if r.sr.cnt.val = 4 then (load (r.sr.accept d) r).ch else r.ch := by
  by_cases h : r.sr.cnt.val = 4 <;> simp [serShift, h]

/-! ### The scanline counter -/

/-- The counter a strobe leaves. -/
theorem Irq.strobe_counter (q : Irq) :
    q.strobe.counter
      = if q.counter = 0 ∨ q.reload = true then q.latch else q.counter - 1 := by
  simp only [Irq.strobe, Irq.raiseAtZero, Irq.reloadOrDecrement]
  repeat' split
  all_goals rfl

/-- Pending after a strobe: as before, or the counter it leaves is zero while enabled. -/
theorem Irq.strobe_pending (q : Irq) :
    q.strobe.pending = (q.pending || (q.strobe.counter == 0 && q.enabled)) := by
  simp only [Irq.strobe, Irq.raiseAtZero, Irq.reloadOrDecrement]
  repeat' split
  all_goals simp_all

@[simp] theorem Irq.strobe_reload (q : Irq) : q.strobe.reload = false := by
  simp only [Irq.strobe, Irq.raiseAtZero, Irq.reloadOrDecrement]
  repeat' split
  all_goals simp_all

@[simp] theorem Irq.strobe_latch (q : Irq) : q.strobe.latch = q.latch := by
  simp only [Irq.strobe, Irq.raiseAtZero, Irq.reloadOrDecrement]
  repeat' split
  all_goals rfl

@[simp] theorem Irq.strobe_enabled (q : Irq) : q.strobe.enabled = q.enabled := by
  simp only [Irq.strobe, Irq.raiseAtZero, Irq.reloadOrDecrement]
  repeat' split
  all_goals rfl

@[simp] theorem Irq.strobe_rearm (q : Irq) : q.strobe.rearm = q.rearm := by
  simp only [Irq.strobe, Irq.raiseAtZero, Irq.reloadOrDecrement]
  repeat' split
  all_goals rfl

@[simp] theorem Irq.strobe_mode (q : Irq) : q.strobe.mode = q.mode := by
  simp only [Irq.strobe, Irq.raiseAtZero, Irq.reloadOrDecrement]
  repeat' split
  all_goals rfl

@[simp] theorem Irq.strobe_prescaler (q : Irq) : q.strobe.prescaler = q.prescaler := by
  simp only [Irq.strobe, Irq.raiseAtZero, Irq.reloadOrDecrement]
  repeat' split
  all_goals rfl

/-! ### The cycle counter -/

/-- A tick counts in cycle mode, and in the other mode when the prescaler runs out. -/
def Irq.counts (q : Irq) : Bool := q.mode || decide (q.prescaler ≤ 1)

/-- The counter a tick leaves. -/
theorem Irq.tick_counter (reload : Nat) (q : Irq) :
    (q.tick reload).counter
      = if q.counts = true then (if q.counter = 0xFF then q.latch else q.counter + 1)
        else q.counter := by
  simp only [Irq.tick, Irq.countUp, Irq.counts]
  repeat' split
  all_goals simp_all

/-- Pending after a tick: as before, or the tick overflowed while armed. -/
theorem Irq.tick_pending (reload : Nat) (q : Irq) :
    (q.tick reload).pending = (q.pending || (q.counts && q.counter == 0xFF && q.enabled)) := by
  simp only [Irq.tick, Irq.countUp, Irq.counts]
  repeat' split
  all_goals simp_all

/-- The prescaler a tick leaves. -/
theorem Irq.tick_prescaler (reload : Nat) (q : Irq) :
    (q.tick reload).prescaler
      = if q.mode = true then q.prescaler
        else if q.prescaler ≤ 1 then reload else q.prescaler - 1 := by
  simp only [Irq.tick, Irq.countUp]
  repeat' split
  all_goals rfl

@[simp] theorem Irq.tick_latch (reload : Nat) (q : Irq) : (q.tick reload).latch = q.latch := by
  simp only [Irq.tick, Irq.countUp]
  repeat' split
  all_goals rfl

@[simp] theorem Irq.tick_enabled (reload : Nat) (q : Irq) : (q.tick reload).enabled = q.enabled := by
  simp only [Irq.tick, Irq.countUp]
  repeat' split
  all_goals rfl

@[simp] theorem Irq.tick_reload (reload : Nat) (q : Irq) : (q.tick reload).reload = q.reload := by
  simp only [Irq.tick, Irq.countUp]
  repeat' split
  all_goals rfl

@[simp] theorem Irq.tick_rearm (reload : Nat) (q : Irq) : (q.tick reload).rearm = q.rearm := by
  simp only [Irq.tick, Irq.countUp]
  repeat' split
  all_goals rfl

@[simp] theorem Irq.tick_mode (reload : Nat) (q : Irq) : (q.tick reload).mode = q.mode := by
  simp only [Irq.tick, Irq.countUp]
  repeat' split
  all_goals rfl

/-! ### The channel scheduler -/

@[simp] theorem Sched.tick_count (divisor : Nat) (c : Sched) :
    (c.tick divisor).count = c.count := by
  unfold Sched.tick; split <;> rfl

/-- The divider a tick leaves is below the divisor when the one before was. -/
theorem Sched.tick_div_lt {divisor : Nat} {c : Sched} (h : c.div < divisor) :
    (c.tick divisor).div < divisor := by
  unfold Sched.tick Sched.serves
  split
  · exact Nat.lt_of_le_of_lt (Nat.zero_le _) h
  · simp_all; omega

/-- The channel index a tick leaves is active when the one before was. -/
theorem Sched.tick_cur_le {divisor : Nat} {c : Sched} (h : c.cur.toNat ≤ c.count.toNat) :
    (c.tick divisor).cur.toNat ≤ c.count.toNat := by
  unfold Sched.tick
  split
  · by_cases h0 : c.cur = 0
    · simp [h0]
    · simp only [h0, if_false]
      have : c.cur.toNat ≠ 0 := fun e => h0 (BitVec.eq_of_toNat_eq e)
      have := c.cur.isLt
      have h1 : (1 : BitVec 3).toNat = 1 := rfl
      rw [BitVec.toNat_sub, h1]
      omega
  · exact h

end Sys2Proof.Machine
end

