-- ==== Sys2Proof/Laws/HostOps.lean ====
section
/-! SUPPORT. What RESTORE leaves in each register, which blobs it accepts, and the elements a family
does not use. -/

namespace Sys2Proof.Machine

/-! ### The counter record -/

theorem restoredPrescaler_eq {reload saved : Nat} (h : saved ≤ reload) :
    restoredPrescaler reload saved = saved := if_pos h

/-- R41 (d), whatever the free value. -/
theorem restoredPrescaler_le (reload saved : Nat) : restoredPrescaler reload saved ≤ reload := by
  unfold restoredPrescaler
  split
  · assumption
  · exact Nat.le_of_lt_succ (Nat.mod_lt _ (Nat.succ_pos _))

theorem Irq.restore_scn (reload : Nat) (saved old : Irq) :
    Irq.restore .scn reload saved old
      = { saved with rearm := old.rearm, mode := old.mode, prescaler := old.prescaler } := rfl

theorem Irq.restore_cyc (reload : Nat) (saved old : Irq) :
    Irq.restore .cyc reload saved old
      = { saved with
          reload := old.reload, prescaler := restoredPrescaler reload saved.prescaler } := rfl

/-- The record is constant in the families without a counter (R35). -/
theorem Irq.restore_other {f : Family} (h : f ≠ .scn) (h' : f ≠ .cyc) (reload : Nat)
    (saved old : Irq) : Irq.restore f reload saved old = old := by
  cases f <;> simp_all [Irq.restore]

/-! ### The scheduler -/

@[simp] theorem Sched.restore_count (divisor : Nat) (c : Sched) :
    (c.restore divisor).count = c.count := rfl
@[simp] theorem Sched.restore_cur (divisor : Nat) (c : Sched) :
    (c.restore divisor).cur = c.cur := rfl

theorem Sched.restore_eq {divisor : Nat} {c : Sched} (h : c.div < divisor) :
    c.restore divisor = c := by simp [Sched.restore, h]

/-- R41 (c), whatever the free value. -/
theorem Sched.restore_div_lt {divisor : Nat} (h : 0 < divisor) (c : Sched) :
    (c.restore divisor).div < divisor := by
  unfold Sched.restore
  dsimp only
  split
  · assumption
  · exact Nat.mod_lt _ h

/-! ### The mode -/

theorem restoredMirr_fourScreen {m : Instance} (h : m.cfg.initMirr = .fourScreen) (b : Regs) :
    restoredMirr m b = .fourScreen := if_pos h

/-- The families without a mirroring write keep the initial mode (R225). -/
theorem restoredMirr_fixed {m : Instance} (h : m.family = .fix ∨ m.family = .dsc ∨ m.family = .mux)
    (b : Regs) : restoredMirr m b = m.cfg.initMirr := by
  unfold restoredMirr
  split
  · exact Eq.symm ‹_›
  · rcases h with h | h | h <;> simp [h]

theorem restoredMirr_ser {m : Instance} (h : m.family = .ser) (h4 : m.cfg.initMirr ≠ .fourScreen)
    (b : Regs) : restoredMirr m b = serMirr b.ctrl := by simp [restoredMirr, h, h4]

/-- SCN and CYC take the mode of the blob. -/
theorem restoredMirr_blob {m : Instance} (h : m.family = .scn ∨ m.family = .cyc)
    (h4 : m.cfg.initMirr ≠ .fourScreen) (b : Regs) : restoredMirr m b = b.mirr := by
  rcases h with h | h <;> simp [restoredMirr, h, h4]

/-- A state of this cartridge brings its own mode. -/
theorem restoredMirr_eq {m : Instance} {b : Regs} (h : RegsInv m.cfg m.family b) :
    restoredMirr m b = b.mirr := by
  by_cases h4 : m.cfg.initMirr = .fourScreen
  · rw [restoredMirr_fourScreen h4, h.locked h4]
  · cases hf : m.family
    case ser => rw [restoredMirr_ser hf h4, h.serMode hf h4]
    case scn | cyc => exact restoredMirr_blob (by simp [hf]) h4 b
    all_goals
      have hx : m.family = .fix ∨ m.family = .dsc ∨ m.family = .mux := by simp [hf]
      rw [restoredMirr_fixed hx, h.fixedMode hx]

/-! ### The registers -/

@[simp] theorem restoreRegs_prgRam (m : Instance) (b r : Regs) :
    (restoreRegs m b r).prgRam = b.prgRam := by
  cases h : m.family <;> simp [restoreRegs, h]
@[simp] theorem restoreRegs_chrRam (m : Instance) (b r : Regs) :
    (restoreRegs m b r).chrRam = b.chrRam := by
  cases h : m.family <;> simp [restoreRegs, h]
@[simp] theorem restoreRegs_mirr (m : Instance) (b r : Regs) :
    (restoreRegs m b r).mirr = restoredMirr m b := by
  cases h : m.family <;> simp [restoreRegs, h]
@[simp] theorem restoreRegs_sr (m : Instance) (b r : Regs) :
    (restoreRegs m b r).sr = if m.family = .ser then b.sr else r.sr := by
  cases h : m.family <;> simp [restoreRegs, h]
@[simp] theorem restoreRegs_ctrl (m : Instance) (b r : Regs) :
    (restoreRegs m b r).ctrl = if m.family = .ser then b.ctrl else r.ctrl := by
  cases h : m.family <;> simp [restoreRegs, h]
@[simp] theorem restoreRegs_chr0 (m : Instance) (b r : Regs) :
    (restoreRegs m b r).chr0 = if m.family = .ser then b.chr0 else r.chr0 := by
  cases h : m.family <;> simp [restoreRegs, h]
@[simp] theorem restoreRegs_chr1 (m : Instance) (b r : Regs) :
    (restoreRegs m b r).chr1 = if m.family = .ser then b.chr1 else r.chr1 := by
  cases h : m.family <;> simp [restoreRegs, h]
@[simp] theorem restoreRegs_prg (m : Instance) (b r : Regs) :
    (restoreRegs m b r).prg = if m.family = .ser then b.prg else r.prg := by
  cases h : m.family <;> simp [restoreRegs, h]
@[simp] theorem restoreRegs_bank (m : Instance) (b r : Regs) :
    (restoreRegs m b r).bank = if m.family = .dsc then b.bank else r.bank := by
  cases h : m.family <;> simp [restoreRegs, h]
@[simp] theorem restoreRegs_bsel (m : Instance) (b r : Regs) :
    (restoreRegs m b r).bsel = if m.family = .scn then b.bsel else r.bsel := by
  cases h : m.family <;> simp [restoreRegs, h]
@[simp] theorem restoreRegs_br (m : Instance) (b r : Regs) :
    (restoreRegs m b r).br = if m.family = .scn then b.br else r.br := by
  cases h : m.family <;> simp [restoreRegs, h]
@[simp] theorem restoreRegs_p16 (m : Instance) (b r : Regs) :
    (restoreRegs m b r).p16 = if m.family = .cyc then b.p16 else r.p16 := by
  cases h : m.family <;> simp [restoreRegs, h]
@[simp] theorem restoreRegs_p8 (m : Instance) (b r : Regs) :
    (restoreRegs m b r).p8 = if m.family = .cyc then b.p8 else r.p8 := by
  cases h : m.family <;> simp [restoreRegs, h]
@[simp] theorem restoreRegs_cr (m : Instance) (b r : Regs) :
    (restoreRegs m b r).cr = if m.family = .cyc ∨ m.family = .mux then b.cr else r.cr := by
  cases h : m.family <;> simp [restoreRegs, h]
@[simp] theorem restoreRegs_mp (m : Instance) (b r : Regs) :
    (restoreRegs m b r).mp = if m.family = .mux then b.mp else r.mp := by
  cases h : m.family <;> simp [restoreRegs, h]
@[simp] theorem restoreRegs_irq (m : Instance) (b r : Regs) :
    (restoreRegs m b r).irq = Irq.restore m.family m.cfg.prescalerReload b.irq r.irq := by
  cases h : m.family <;> simp [restoreRegs, h, Irq.restore]
@[simp] theorem restoreRegs_ch (m : Instance) (b r : Regs) :
    (restoreRegs m b r).ch =
      if m.family = .mux then b.ch.restore m.cfg.channelDivisor else r.ch := by
  cases h : m.family <;> simp [restoreRegs, h]

/-! ### The blobs RESTORE accepts -/

/-- Everything RESTORE asks of a blob. -/
theorem blobFits_iff (m : Instance) (b : Blob) :
    blobFits m b = true ↔ b.version = .current ∧ b.family = m.family ∧
      b.hasPrgRam = m.cfg.hasPrgRam ∧ b.hasChrRam = hasChrRam m.cfg ∧ RamInv m.cfg b.regs := by
  simp only [blobFits, Bool.and_eq_true, beq_iff_eq, and_assoc]
  exact ⟨fun ⟨h1, h2, h3, h4, h5, h6⟩ => ⟨h1, h2, h3, h4, ⟨h5, h6⟩⟩,
    fun ⟨h1, h2, h3, h4, h5⟩ => ⟨h1, h2, h3, h4, h5.prgRam, h5.chrRam⟩⟩

/-- The instance that saved a blob accepts it. -/
theorem blobFits_blobOf {m : Instance} (h : RamInv m.cfg m.regs) : blobFits m (blobOf m) = true :=
  (blobFits_iff ..).2 ⟨rfl, rfl, rfl, rfl, h⟩

/-! ### The elements a family does not use -/

theorem SameUnused.refl (f : Family) (r : Regs) : SameUnused f r r := by
  constructor <;> intros <;> simp

theorem SameUnused.symm {f : Family} {r r' : Regs} (h : SameUnused f r r') : SameUnused f r' r where
  ser hf := by simp [h.ser hf]
  dsc hf := (h.dsc hf).symm
  scn hf := by simp [h.scn hf]
  cyc hf := by simp [h.cyc hf]
  mux hf := by simp [h.mux hf]
  cr hf hf' := (h.cr hf hf').symm
  irq hf hf' := (h.irq hf hf').symm

theorem SameUnused.trans {f : Family} {r r' r'' : Regs} (h : SameUnused f r r')
    (h' : SameUnused f r' r'') : SameUnused f r r'' where
  ser hf := by simp [h.ser hf, h'.ser hf]
  dsc hf := (h.dsc hf).trans (h'.dsc hf)
  scn hf := by simp [h.scn hf, h'.scn hf]
  cyc hf := by simp [h.cyc hf, h'.cyc hf]
  mux hf := by simp [h.mux hf, h'.mux hf]
  cr hf hf' := (h.cr hf hf').trans (h'.cr hf hf')
  irq hf hf' := (h.irq hf hf').trans (h'.irq hf hf')

/-- RESTORE leaves the elements the family does not use as they were. -/
theorem restoreRegs_sameUnused (m : Instance) (b r : Regs) :
    SameUnused m.family (restoreRegs m b r) r := by
  constructor <;> intros <;> simp_all [Irq.restore] <;> split <;> simp_all

end Sys2Proof.Machine
end

