-- ==== Sys2Proof/Laws/Memory.lean ====
section
/-! SUPPORT. Byte arrays: a read after a write, and the canonical form that every write keeps. -/

namespace Sys2Proof

theorem Mem.listedFrom_cons (lo size k : Nat) (c : Byte) (t : Mem) :
    Mem.listedFrom lo size ((k, c) :: t) = true ↔
      lo ≤ k ∧ k < size ∧ c ≠ Mem.unlisted ∧ Mem.listedFrom (k + 1) size t = true := by
  simp [Mem.listedFrom, and_assoc]

theorem Mem.listedFrom_mono {lo lo' size : Nat} (hl : lo' ≤ lo) :
    ∀ {m : Mem}, Mem.listedFrom lo size m = true → Mem.listedFrom lo' size m = true
  | [], _ => rfl
  | (k, c) :: t, h => by
    rw [Mem.listedFrom_cons] at h ⊢
    exact ⟨by omega, h.2.1, h.2.2.1, h.2.2.2⟩

/-- Below the first offset it may list, an array reads as unlisted. -/
theorem Mem.read_below {lo size : Nat} : ∀ {m : Mem} {off : Nat},
    Mem.listedFrom lo size m = true → off < lo → Mem.read m off = Mem.unlisted
  | [], _, _, _ => rfl
  | (k, c) :: t, off, h, ho => by
    rw [Mem.listedFrom_cons] at h
    have hk : k ≠ off := by omega
    simp only [Mem.read, if_neg hk]
    exact Mem.read_below h.2.2.2 (by omega)

theorem Mem.write_listedFrom {lo size off : Nat} {v : Byte} (hs : off < size) :
    ∀ {m : Mem}, Mem.listedFrom lo size m = true → lo ≤ off →
      Mem.listedFrom lo size (Mem.write m off v) = true
  | [], _, hl => by
    unfold Mem.write
    split
    · rfl
    · rw [Mem.listedFrom_cons]; exact ⟨hl, hs, ‹_›, rfl⟩
  | (k, c) :: t, h, hl => by
    have h' := (Mem.listedFrom_cons ..).1 h
    unfold Mem.write
    split
    · split
      · exact h
      · rw [Mem.listedFrom_cons]
        exact ⟨hl, hs, ‹_›, (Mem.listedFrom_cons ..).2 ⟨by omega, h'.2⟩⟩
    · split
      · split
        · exact Mem.listedFrom_mono (by omega) h'.2.2.2
        · rw [Mem.listedFrom_cons]
          exact ⟨hl, hs, ‹_›, Mem.listedFrom_mono (by omega) h'.2.2.2⟩
      · rw [Mem.listedFrom_cons]
        exact ⟨h'.1, h'.2.1, h'.2.2.1, Mem.write_listedFrom hs h'.2.2.2 (by omega)⟩

/-- A write inside the array keeps the canonical form. -/
theorem Mem.write_wf {size off : Nat} {v : Byte} {m : Mem} (hs : off < size)
    (h : Mem.wf size m = true) : Mem.wf size (Mem.write m off v) = true :=
  Mem.write_listedFrom hs h (Nat.zero_le _)

theorem Mem.read_write_from {lo size : Nat} {off : Nat} {v : Byte} (x : Nat) :
    ∀ {m : Mem}, Mem.listedFrom lo size m = true →
      Mem.read (Mem.write m off v) x = if x = off then v else Mem.read m x
  | [], _ => by
    unfold Mem.write
    by_cases hv : v = Mem.unlisted <;> by_cases hx : x = off
    · simp [hv, hx, Mem.read]
    · simp [hv, hx, Mem.read]
    · simp [hv, hx, Mem.read]
    · simp [hv, hx, Ne.symm hx, Mem.read]
  | (k, c) :: t, h => by
    have h' := (Mem.listedFrom_cons ..).1 h
    have below : ∀ y, y ≤ k → Mem.read t y = Mem.unlisted := fun y hy =>
      Mem.read_below h'.2.2.2 (by omega)
    have ih := Mem.read_write_from (off := off) (v := v) x h'.2.2.2
    unfold Mem.write
    by_cases h1 : off < k
    · rw [if_pos h1]
      by_cases hx : x = off
      · subst hx
        by_cases hv : v = Mem.unlisted
        · simp [hv, Mem.read, show k ≠ x by omega, below x (by omega)]
        · simp [hv, Mem.read]
      · by_cases hv : v = Mem.unlisted <;> simp [hv, Mem.read, hx, Ne.symm hx]
    · rw [if_neg h1]
      by_cases h2 : off = k
      · subst h2
        by_cases hx : x = off
        · subst hx
          by_cases hv : v = Mem.unlisted <;> simp [hv, Mem.read, below x (le_refl _)]
        · by_cases hv : v = Mem.unlisted <;> simp [hv, Mem.read, hx, Ne.symm hx]
      · simp only [if_neg h2, Mem.read, ih]
        by_cases hx : x = off
        · subst hx; simp [show k ≠ x by omega]
        · simp [hx]

/-- A read after a write: the byte written at that offset, the old byte at every other. -/
theorem Mem.read_write {size off : Nat} {v : Byte} {m : Mem} (h : Mem.wf size m = true) (x : Nat) :
    Mem.read (Mem.write m off v) x = if x = off then v else Mem.read m x :=
  Mem.read_write_from x h

theorem Mem.wf_nil (size : Nat) : Mem.wf size [] = true := rfl

end Sys2Proof
end

