-- ==== Sys2Proof/Laws/Operands.lean ====
section
/-! SUPPORT. The window tables cover their regions once, a translated offset stays inside its space,
and what conflict resolution does. -/

namespace Sys2Proof.Machine

theorem Window.covers_iff (w : Window) (a : Nat) :
    w.covers a = true ↔ w.base ≤ a ∧ a < w.base + w.wsize := by
  simp [Window.covers]

/-- The fields of a window, each as a number of its own. -/
theorem Window.fields_of_eq {w : Window} {base wsize sel : Nat} (h : w = ⟨base, wsize, sel⟩) :
    w.base = base ∧ w.wsize = wsize ∧ w.sel = sel := by
  subst h; exact ⟨rfl, rfl, rfl⟩

/-- The bases and sizes of a window table: what never moves (R42). -/
def frameOf (t : List Window) : List (Nat × Nat) := t.map fun w => (w.base, w.wsize)

/-- R42: the program windows of a family, whatever the registers hold. -/
def prgFrame : Family → List (Nat × Nat)
  | .fix | .dsc | .ser => [(0x8000, 16384), (0xC000, 16384)]
  | .scn | .mux => [(0x8000, 8192), (0xA000, 8192), (0xC000, 8192), (0xE000, 8192)]
  | .cyc => [(0x8000, 16384), (0xC000, 8192), (0xE000, 8192)]

/-- R42: the graphics windows of a family, whatever the registers hold. -/
def chrFrame : Family → List (Nat × Nat)
  | .fix | .dsc => [(0x0000, 8192)]
  | .ser => [(0x0000, 4096), (0x1000, 4096)]
  | .scn | .cyc | .mux =>
    [(0x0000, 1024), (0x0400, 1024), (0x0800, 1024), (0x0C00, 1024), (0x1000, 1024),
     (0x1400, 1024), (0x1800, 1024), (0x1C00, 1024)]

theorem frame_prgTable (m : Instance) : frameOf (prgTable m) = prgFrame m.family := by
  unfold prgTable
  cases m.family
  · rfl
  · rfl
  · change frameOf (prgTableSer m) = _; unfold prgTableSer; split <;> rfl
  · rfl
  · rfl
  · rfl

theorem frame_chrTable (m : Instance) : frameOf (chrTable m) = chrFrame m.family := by
  unfold chrTable
  cases m.family
  · rfl
  · rfl
  · change frameOf (chrTableSer m) = _; unfold chrTableSer; split <;> rfl
  · change frameOf (chrTableScn m) = _; unfold chrTableScn windows1K; split <;> rfl
  · rfl
  · rfl

/-- A table with a window that covers the address gives it an offset, that window's. -/
theorem lookup_of_covered {size a : Nat} {t : List Window} (h : ∃ w ∈ t, w.covers a = true) :
    ∃ w ∈ t, w.covers a = true ∧ lookup size t a = some (translate size w a) := by
  unfold lookup
  cases hf : t.find? fun w => w.covers a with
  | none =>
    obtain ⟨w, hw, hc⟩ := h
    exact absurd hc (by simpa using List.find?_eq_none.1 hf w hw)
  | some w =>
    exact ⟨w, List.mem_of_find?_eq_some hf, by simpa using List.find?_some hf, rfl⟩

theorem lookup_eq_some {size a off : Nat} {t : List Window} (h : lookup size t a = some off) :
    ∃ w ∈ t, w.covers a = true ∧ off = translate size w a := by
  unfold lookup at h
  cases hf : t.find? fun w => w.covers a with
  | none => simp [hf] at h
  | some w =>
    refine ⟨w, List.mem_of_find?_eq_some hf, by simpa using List.find?_some hf, ?_⟩
    simpa [hf] using h.symm

theorem frame_covers {t : List Window} {a : Nat}
    (h : ∃ p ∈ frameOf t, p.1 ≤ a ∧ a < p.1 + p.2) : ∃ w ∈ t, w.covers a = true := by
  obtain ⟨p, hp, hc⟩ := h
  obtain ⟨w, hw, rfl⟩ := List.mem_map.1 hp
  exact ⟨w, hw, (Window.covers_iff ..).2 hc⟩

/-- Every program-ROM address lies in a window (R123). -/
theorem prgTable_covers (m : Instance) {a : Nat} (h : 0x8000 ≤ a) (h' : a ≤ 0xFFFF) :
    ∃ w ∈ prgTable m, w.covers a = true := by
  apply frame_covers
  rw [frame_prgTable]
  unfold prgFrame
  split <;> simp <;> omega

/-- Every pattern address lies in a window (R123). -/
theorem chrTable_covers (m : Instance) {a : Nat} (h : a ≤ 0x1FFF) :
    ∃ w ∈ chrTable m, w.covers a = true := by
  apply frame_covers
  rw [frame_chrTable]
  unfold chrFrame
  split <;> simp <;> omega

/-- R121: the offset lies inside the space when the window size divides it and it is not empty. -/
theorem translate_lt {size a : Nat} {w : Window} (hw : 0 < w.wsize) (hs : w.wsize ≤ size)
    (hd : size % w.wsize = 0) : translate size w a < size := by
  unfold translate nbanks
  have hn : 0 < size / w.wsize := Nat.div_pos hs hw
  have h1 : w.sel % (size / w.wsize) < size / w.wsize := Nat.mod_lt _ hn
  have h2 : (a - w.base) % w.wsize < w.wsize := Nat.mod_lt _ hw
  have h3 : size / w.wsize * w.wsize = size := Nat.div_mul_cancel (Nat.dvd_of_mod_eq_zero hd)
  calc _ < w.sel % (size / w.wsize) * w.wsize + w.wsize := by omega
    _ = (w.sel % (size / w.wsize) + 1) * w.wsize := by ring
    _ ≤ size / w.wsize * w.wsize := Nat.mul_le_mul_right _ h1
    _ = size := h3

theorem resolve_off {m : Instance} (h : m.conflict = false) (a : Addr) (d : Byte) :
    resolve m a d = d := by simp [resolve, h]

theorem resolve_on {m : Instance} (h : m.conflict = true) (a : Addr) (d : Byte) :
    resolve m a d = d &&& prgByte m a := by simp [resolve, h]

/-- `setElem` element by element. -/
theorem getElem_setElem (v : Vector Byte 8) (k : BitVec 3) (b : Byte) (j : Fin 8) :
    (setElem v k b)[j] = if k.toNat = j.val then b else v[j] := by
  simp [setElem, Vector.getElem_set]

end Sys2Proof.Machine
end

