-- ==== Sys2Proof/Laws/PerInstr.lean ====
section
/-! SUPPORT. One fact for each instruction: its word has the op of its row of R92 and zero in every
field the operation does not use (R90, R91). -/

namespace Sys2Proof.Laws

/-- The `op` column of R92. -/
def rowOp : Instr → BusOp
  | .prgRd _ => .cpur
  | .ramRd _ => .cpur
  | .expRd _ => .cpur
  | .muxCount _ _ => .cpuw
  | .ramWr _ _ => .cpuw
  | .expWr _ _ => .cpuw
  | .chrRd _ => .ppur
  | .ntRd _ => .ppur
  | .chrWr _ _ => .ppuw
  | .ntWr _ _ => .ppuw
  | .dscBank _ _ => .cpuw
  | .serReset _ _ => .cpuw
  | .serSh0 _ _ => .cpuw
  | .serSh1 _ _ => .cpuw
  | .serSh2 _ _ => .cpuw
  | .serSh3 _ _ => .cpuw
  | .scnBsel _ _ => .cpuw
  | .scnBdat _ _ => .cpuw
  | .scnMirr _ _ => .cpuw
  | .scnNop _ _ => .cpuw
  | .scnLatch _ _ => .cpuw
  | .scnReload _ _ => .cpuw
  | .scnDisable _ _ => .cpuw
  | .scnEnable _ _ => .cpuw
  | .cycPrg16 _ _ => .cpuw
  | .cycMirr _ _ => .cpuw
  | .cycPrg8 _ _ => .cpuw
  | .cycChrlo _ _ => .cpuw
  | .cycChrhi _ _ => .cpuw
  | .cycLatch _ _ => .cpuw
  | .cycCtrl _ _ => .cpuw
  | .cycAck _ _ => .cpuw
  | .muxChr _ _ => .cpuw
  | .muxPrg0 _ _ => .cpuw
  | .muxPrg1 _ _ => .cpuw
  | .muxPrg2 _ _ => .cpuw
  | .romNop _ _ => .cpuw
  | .clkCyc => .clk
  | .clkMux => .clk
  | .clkNop => .clk
  | .scanScn => .scan
  | .scanNop => .scan
  | .qmir => .qmir
  | .qirq => .qirq
  | .init => .init
  | .save => .save
  | .restore => .restore
  | .unload => .unload

/-- The word passes R90 as a word of the row's op. -/
def WordForm.Statement (i : Instr) : Prop :=
  BusOp.ofCode (opField (encode i)).toNat = some (rowOp i) ∧
    (rowOp i).unusedZero (addrField (encode i)) (dataField (encode i)) = true

theorem WordForm.of_pack {i : Instr} (op : BusOp) (a : Addr) (d : Byte)
    (he : encode i = pack op a d) (ho : rowOp i = op) (hu : op.unusedZero a d = true) :
    WordForm.Statement i := by
  rw [WordForm.Statement, he, ho]
  simpa using hu

theorem WordForm.prgRd (a : Addr) : WordForm.Statement (.prgRd a) :=
  WordForm.of_pack .cpur a 0 rfl rfl rfl
theorem WordForm.ramRd (a : Addr) : WordForm.Statement (.ramRd a) :=
  WordForm.of_pack .cpur a 0 rfl rfl rfl
theorem WordForm.expRd (a : Addr) : WordForm.Statement (.expRd a) :=
  WordForm.of_pack .cpur a 0 rfl rfl rfl
theorem WordForm.muxCount (a : Addr) (d : Byte) : WordForm.Statement (.muxCount a d) :=
  WordForm.of_pack .cpuw a d rfl rfl rfl
theorem WordForm.ramWr (a : Addr) (d : Byte) : WordForm.Statement (.ramWr a d) :=
  WordForm.of_pack .cpuw a d rfl rfl rfl
theorem WordForm.expWr (a : Addr) (d : Byte) : WordForm.Statement (.expWr a d) :=
  WordForm.of_pack .cpuw a d rfl rfl rfl
theorem WordForm.chrRd (a : Addr) : WordForm.Statement (.chrRd a) :=
  WordForm.of_pack .ppur a 0 rfl rfl rfl
theorem WordForm.ntRd (a : Addr) : WordForm.Statement (.ntRd a) :=
  WordForm.of_pack .ppur a 0 rfl rfl rfl
theorem WordForm.chrWr (a : Addr) (d : Byte) : WordForm.Statement (.chrWr a d) :=
  WordForm.of_pack .ppuw a d rfl rfl rfl
theorem WordForm.ntWr (a : Addr) (d : Byte) : WordForm.Statement (.ntWr a d) :=
  WordForm.of_pack .ppuw a d rfl rfl rfl
theorem WordForm.dscBank (a : Addr) (d : Byte) : WordForm.Statement (.dscBank a d) :=
  WordForm.of_pack .cpuw a d rfl rfl rfl
theorem WordForm.serReset (a : Addr) (d : Byte) : WordForm.Statement (.serReset a d) :=
  WordForm.of_pack .cpuw a d rfl rfl rfl
theorem WordForm.serSh0 (a : Addr) (d : Byte) : WordForm.Statement (.serSh0 a d) :=
  WordForm.of_pack .cpuw a d rfl rfl rfl
theorem WordForm.serSh1 (a : Addr) (d : Byte) : WordForm.Statement (.serSh1 a d) :=
  WordForm.of_pack .cpuw a d rfl rfl rfl
theorem WordForm.serSh2 (a : Addr) (d : Byte) : WordForm.Statement (.serSh2 a d) :=
  WordForm.of_pack .cpuw a d rfl rfl rfl
theorem WordForm.serSh3 (a : Addr) (d : Byte) : WordForm.Statement (.serSh3 a d) :=
  WordForm.of_pack .cpuw a d rfl rfl rfl
theorem WordForm.scnBsel (a : Addr) (d : Byte) : WordForm.Statement (.scnBsel a d) :=
  WordForm.of_pack .cpuw a d rfl rfl rfl
theorem WordForm.scnBdat (a : Addr) (d : Byte) : WordForm.Statement (.scnBdat a d) :=
  WordForm.of_pack .cpuw a d rfl rfl rfl
theorem WordForm.scnMirr (a : Addr) (d : Byte) : WordForm.Statement (.scnMirr a d) :=
  WordForm.of_pack .cpuw a d rfl rfl rfl
theorem WordForm.scnNop (a : Addr) (d : Byte) : WordForm.Statement (.scnNop a d) :=
  WordForm.of_pack .cpuw a d rfl rfl rfl
theorem WordForm.scnLatch (a : Addr) (d : Byte) : WordForm.Statement (.scnLatch a d) :=
  WordForm.of_pack .cpuw a d rfl rfl rfl
theorem WordForm.scnReload (a : Addr) (d : Byte) : WordForm.Statement (.scnReload a d) :=
  WordForm.of_pack .cpuw a d rfl rfl rfl
theorem WordForm.scnDisable (a : Addr) (d : Byte) : WordForm.Statement (.scnDisable a d) :=
  WordForm.of_pack .cpuw a d rfl rfl rfl
theorem WordForm.scnEnable (a : Addr) (d : Byte) : WordForm.Statement (.scnEnable a d) :=
  WordForm.of_pack .cpuw a d rfl rfl rfl
theorem WordForm.cycPrg16 (a : Addr) (d : Byte) : WordForm.Statement (.cycPrg16 a d) :=
  WordForm.of_pack .cpuw a d rfl rfl rfl
theorem WordForm.cycMirr (a : Addr) (d : Byte) : WordForm.Statement (.cycMirr a d) :=
  WordForm.of_pack .cpuw a d rfl rfl rfl
theorem WordForm.cycPrg8 (a : Addr) (d : Byte) : WordForm.Statement (.cycPrg8 a d) :=
  WordForm.of_pack .cpuw a d rfl rfl rfl
theorem WordForm.cycChrlo (a : Addr) (d : Byte) : WordForm.Statement (.cycChrlo a d) :=
  WordForm.of_pack .cpuw a d rfl rfl rfl
theorem WordForm.cycChrhi (a : Addr) (d : Byte) : WordForm.Statement (.cycChrhi a d) :=
  WordForm.of_pack .cpuw a d rfl rfl rfl
theorem WordForm.cycLatch (a : Addr) (d : Byte) : WordForm.Statement (.cycLatch a d) :=
  WordForm.of_pack .cpuw a d rfl rfl rfl
theorem WordForm.cycCtrl (a : Addr) (d : Byte) : WordForm.Statement (.cycCtrl a d) :=
  WordForm.of_pack .cpuw a d rfl rfl rfl
theorem WordForm.cycAck (a : Addr) (d : Byte) : WordForm.Statement (.cycAck a d) :=
  WordForm.of_pack .cpuw a d rfl rfl rfl
theorem WordForm.muxChr (a : Addr) (d : Byte) : WordForm.Statement (.muxChr a d) :=
  WordForm.of_pack .cpuw a d rfl rfl rfl
theorem WordForm.muxPrg0 (a : Addr) (d : Byte) : WordForm.Statement (.muxPrg0 a d) :=
  WordForm.of_pack .cpuw a d rfl rfl rfl
theorem WordForm.muxPrg1 (a : Addr) (d : Byte) : WordForm.Statement (.muxPrg1 a d) :=
  WordForm.of_pack .cpuw a d rfl rfl rfl
theorem WordForm.muxPrg2 (a : Addr) (d : Byte) : WordForm.Statement (.muxPrg2 a d) :=
  WordForm.of_pack .cpuw a d rfl rfl rfl
theorem WordForm.romNop (a : Addr) (d : Byte) : WordForm.Statement (.romNop a d) :=
  WordForm.of_pack .cpuw a d rfl rfl rfl
theorem WordForm.clkCyc : WordForm.Statement .clkCyc :=
  WordForm.of_pack .clk 0 0 rfl rfl rfl
theorem WordForm.clkMux : WordForm.Statement .clkMux :=
  WordForm.of_pack .clk 0 0 rfl rfl rfl
theorem WordForm.clkNop : WordForm.Statement .clkNop :=
  WordForm.of_pack .clk 0 0 rfl rfl rfl
theorem WordForm.scanScn : WordForm.Statement .scanScn :=
  WordForm.of_pack .scan 0 0 rfl rfl rfl
theorem WordForm.scanNop : WordForm.Statement .scanNop :=
  WordForm.of_pack .scan 0 0 rfl rfl rfl
theorem WordForm.qmir : WordForm.Statement .qmir :=
  WordForm.of_pack .qmir 0 0 rfl rfl rfl
theorem WordForm.qirq : WordForm.Statement .qirq :=
  WordForm.of_pack .qirq 0 0 rfl rfl rfl
theorem WordForm.init : WordForm.Statement .init :=
  WordForm.of_pack .init 0 0 rfl rfl rfl
theorem WordForm.save : WordForm.Statement .save :=
  WordForm.of_pack .save 0 0 rfl rfl rfl
theorem WordForm.restore : WordForm.Statement .restore :=
  WordForm.of_pack .restore 0 0 rfl rfl rfl
theorem WordForm.unload : WordForm.Statement .unload :=
  WordForm.of_pack .unload 0 0 rfl rfl rfl

end Sys2Proof.Laws
end

