-- ==== Sys2Proof/Tests/Slice0.lean ====
section
/-! SUPPORT. Tests of the model against the vectors of 95_test_vectors.md (their numbers stand in the
comments), the well-formedness smoke tests, and for each obligation with hypotheses a witness that
meets them. -/

namespace Sys2Proof.Tests

open Sys2Proof.Machine

/-! ### A small board: the test configuration of 95_test_vectors.md -/

/-- Some bytes of the test ROM of 95_test_vectors.md: `PRGROM[i] = (i div 8192) * 8 + i mod 8`. -/
def romBytes : Mem :=
  [(0x0003, 0x03), (0x0005, 0x05), (0x1234, 0x04), (0x3FFF, 0x0F)]

def bigRomBytes : Mem :=
  romBytes ++ [(0x4000, 0x10), (0x4005, 0x15), (0x8002, 0x22), (0xC000, 0x30), (0x14000, 0x50), (0x14002, 0x52),
    (0x1C005, 0x75), (0x1E000, 0x78)]

/-- `cfg(m, p, c, mirr)` with p = 8 banks or 1. -/
def board (f : Family) (banks chr : Nat) (mirr : Mirr) : Cfg :=
  { plainCfg f with
    prgBanks := banks
    chrBanks := chr
    prgRom := ⟨banks * 16384, if banks = 8 then bigRomBytes else romBytes⟩
    chrRom := ⟨chr * 8192, if chr = 0 then [] else [(0x0001, 0x01), (0x1410, 0x0A)]⟩
    initMirr := mirr
    openBus := 0xAA }

def loaded (f : Family) (banks chr : Nat) : Instance :=
  loadInstance f (board f banks chr .vertical)

/-- The machine with that board loaded. -/
def on (f : Family) (banks chr : Nat) : State :=
  { State.reset with inst := some (loaded f banks chr) }

/-- The same board with other register values. -/
def onRegs (f : Family) (banks chr : Nat) (g : Regs → Regs) : State :=
  { State.reset with inst := some ((loaded f banks chr).update g) }

def outOf (r : Result) : Option Output :=
  match r with
  | .next t => some t.out
  | .fault _ => none
  | .refused _ => none

def regOf {α : Type} (g : Regs → α) (r : Result) : Option α :=
  match r with
  | .next t => t.inst.map fun m => g m.regs
  | .fault _ => none
  | .refused _ => none

def whyOf (r : Result) : Option Refusal :=
  match r with
  | .next _ => none
  | .fault _ => none
  | .refused e => some e

/-! ### Well-formedness: for each check of R92 a term that breaks it -/

theorem test_wf_bus :
    (Instr.prgRd 0x7FFF).wf (some .fix) = false ∧ (Instr.ramRd 0x8000).wf (some .fix) = false ∧
    (Instr.expRd 0x401F).wf (some .fix) = false ∧ (Instr.ramWr 0x5FFF 0).wf (some .fix) = false ∧
    (Instr.expWr 0x6000 0).wf (some .fix) = false ∧ (Instr.expWr 0x4800 0).wf (some .mux) = false ∧
    (Instr.chrRd 0x2000).wf (some .fix) = false ∧ (Instr.ntRd 0x1FFF).wf (some .fix) = false ∧
    (Instr.chrWr 0x2000 0).wf (some .fix) = false ∧ (Instr.ntWr 0x4000 0).wf (some .fix) = false ∧
    (Instr.romNop 0x7FFF 0).wf (some .fix) = false ∧ (Instr.romNop 0x8000 0).wf (some .dsc) = false := by
  decide

theorem test_wf_dsc_ser :
    (Instr.dscBank 0x7FFF 0).wf (some .dsc) = false ∧ (Instr.dscBank 0x8000 0).wf (some .fix) = false ∧
    (Instr.serReset 0x8000 0x7F).wf (some .ser) = false ∧
    (Instr.serReset 0x7FFF 0x80).wf (some .ser) = false ∧
    (Instr.serSh0 0xA000 0).wf (some .ser) = false ∧ (Instr.serSh1 0x9FFF 0).wf (some .ser) = false ∧
    (Instr.serSh2 0xE000 0).wf (some .ser) = false ∧ (Instr.serSh3 0xDFFF 0).wf (some .ser) = false ∧
    (Instr.serSh0 0x8000 0x80).wf (some .ser) = false ∧
    (Instr.serSh1 0xA000 0x80).wf (some .ser) = false ∧
    (Instr.serSh2 0xC000 0x80).wf (some .ser) = false ∧
    (Instr.serSh3 0xE000 0x80).wf (some .ser) = false := by
  decide

theorem test_wf_scn :
    (Instr.scnBsel 0x8001 0).wf (some .scn) = false ∧ (Instr.scnBdat 0x8000 0).wf (some .scn) = false ∧
    (Instr.scnMirr 0xA001 0).wf (some .scn) = false ∧ (Instr.scnNop 0xA000 0).wf (some .scn) = false ∧
    (Instr.scnLatch 0xC001 0).wf (some .scn) = false ∧
    (Instr.scnReload 0xC000 0).wf (some .scn) = false ∧
    (Instr.scnDisable 0xE001 0).wf (some .scn) = false ∧
    (Instr.scnEnable 0xDFFF 0).wf (some .scn) = false ∧ Instr.scanScn.wf (some .cyc) = false ∧
    Instr.scanNop.wf (some .scn) = false := by
  decide

theorem test_wf_cyc :
    (Instr.cycPrg16 0x9000 0).wf (some .cyc) = false ∧ (Instr.cycMirr 0xB002 0).wf (some .cyc) = false ∧
    (Instr.cycPrg8 0xD000 0).wf (some .cyc) = false ∧
    (Instr.cycChrlo 0xE000 0).wf (some .cyc) = false ∧
    (Instr.cycChrhi 0xDFFF 0).wf (some .cyc) = false ∧
    (Instr.cycLatch 0xF001 0).wf (some .cyc) = false ∧
    (Instr.cycCtrl 0xF002 0).wf (some .cyc) = false ∧ (Instr.cycAck 0xF003 0).wf (some .cyc) = false ∧
    (Instr.romNop 0xB003 0).wf (some .cyc) = false ∧ Instr.clkCyc.wf (some .mux) = false := by
  decide

theorem test_wf_mux_host :
    (Instr.muxCount 0x5000 0).wf (some .mux) = false ∧ (Instr.muxCount 0x4800 0).wf (some .fix) = false ∧
    (Instr.muxChr 0xC000 0).wf (some .mux) = false ∧ (Instr.muxPrg0 0xE800 0).wf (some .mux) = false ∧
    (Instr.muxPrg1 0xE7FF 0).wf (some .mux) = false ∧ (Instr.muxPrg2 0xF800 0).wf (some .mux) = false ∧
    (Instr.romNop 0xE000 0).wf (some .mux) = false ∧ Instr.clkMux.wf (some .fix) = false ∧
    Instr.clkNop.wf (some .mux) = false ∧ Instr.init.wf (some .fix) = false ∧
    Instr.save.wf none = false ∧ Instr.qmir.wf none = false := by
  decide

/-! ### Decoding: words of 95_test_vectors.md 2.1, one at least for every constructor -/

/-- V-30-04, V-30-05, V-30-06, V-30-07, V-30-08, V-30-11, V-30-13, V-30-64. -/
theorem test_decode_form :
    decode (some .fix) 0x00401F00 = .error .notInDomain ∧
    decode (some .fix) 0x00800001 = .error .notAnOperation ∧
    decode (some .fix) 0x0C000000 = .error .notAnOperation ∧
    decode (some .fix) 0xFF000000 = .error .notAnOperation ∧
    decode (some .fix) 0x04000100 = .error .notAnOperation ∧
    decode (some .fix) 0x02400000 = .error .notInDomain ∧
    decode (some .fix) 0x01000055 = .error .notInDomain ∧
    decode (some .fix) 0x06000001 = .error .notAnOperation := by decide

/-- V-30-01, V-30-02, V-30-03, V-30-09, V-30-10, V-30-12, V-40-10 (R95), V-40-15 (R94). -/
theorem test_decode_bus :
    decode (some .fix) 0x00800000 = .ok (.prgRd 0x8000) ∧
    decode (some .fix) 0x007FFF00 = .ok (.ramRd 0x7FFF) ∧
    decode (some .fix) 0x00402000 = .ok (.expRd 0x4020) ∧
    decode (some .fix) 0x021FFF00 = .ok (.chrRd 0x1FFF) ∧
    decode (some .fix) 0x02200000 = .ok (.ntRd 0x2000) ∧
    decode (some .fix) 0x033FFF55 = .ok (.ntWr 0x3FFF 0x55) ∧
    decode (some .fix) 0x016010AB = .ok (.ramWr 0x6010 0xAB) ∧
    decode (some .dsc) 0x0312345A = .ok (.chrWr 0x1234 0x5A) := by decide

/-- V-30-14, V-30-15, V-30-16, V-30-17, V-30-18, V-30-19, V-30-20. -/
theorem test_decode_fix_dsc_ser :
    decode (some .fix) 0x018000FF = .ok (.romNop 0x8000 0xFF) ∧
    decode (some .dsc) 0x01FFFF00 = .ok (.dscBank 0xFFFF 0x00) ∧
    decode (some .ser) 0x01FFFF80 = .ok (.serReset 0xFFFF 0x80) ∧
    decode (some .ser) 0x019FFF7F = .ok (.serSh0 0x9FFF 0x7F) ∧
    decode (some .ser) 0x01A00000 = .ok (.serSh1 0xA000 0x00) ∧
    decode (some .ser) 0x01DFFF01 = .ok (.serSh2 0xDFFF 0x01) ∧
    decode (some .ser) 0x01E00001 = .ok (.serSh3 0xE000 0x01) := by decide

/-- V-30-21, V-30-22, V-30-23, V-30-24, V-30-25, V-30-26, V-30-27, V-30-28, V-30-54, V-30-55. -/
theorem test_decode_scn :
    decode (some .scn) 0x019FFE00 = .ok (.scnBsel 0x9FFE 0x00) ∧
    decode (some .scn) 0x019FFF00 = .ok (.scnBdat 0x9FFF 0x00) ∧
    decode (some .scn) 0x01A00001 = .ok (.scnMirr 0xA000 0x01) ∧
    decode (some .scn) 0x01BFFF80 = .ok (.scnNop 0xBFFF 0x80) ∧
    decode (some .scn) 0x01D00014 = .ok (.scnLatch 0xD000 0x14) ∧
    decode (some .scn) 0x01C00100 = .ok (.scnReload 0xC001 0x00) ∧
    decode (some .scn) 0x01FFFE00 = .ok (.scnDisable 0xFFFE 0x00) ∧
    decode (some .scn) 0x01FFFF00 = .ok (.scnEnable 0xFFFF 0x00) ∧
    decode (some .scn) 0x04000000 = .ok .clkNop ∧
    decode (some .scn) 0x05000000 = .ok .scanScn := by decide

/-- V-30-29, V-30-30, V-30-31, V-30-32, V-30-33, V-30-34, V-30-35, V-30-36, V-30-37, V-30-38,
V-30-39, V-30-52, V-30-56. -/
theorem test_decode_cyc :
    decode (some .cyc) 0x018FFF13 = .ok (.cycPrg16 0x8FFF 0x13) ∧
    decode (some .cyc) 0x01900000 = .ok (.romNop 0x9000 0x00) ∧
    decode (some .cyc) 0x01B0020C = .ok (.romNop 0xB002 0x0C) ∧
    decode (some .cyc) 0x01BFFF0C = .ok (.cycMirr 0xBFFF 0x0C) ∧
    decode (some .cyc) 0x01C00025 = .ok (.cycPrg8 0xC000 0x25) ∧
    decode (some .cyc) 0x01D00240 = .ok (.cycChrlo 0xD002 0x40) ∧
    decode (some .cyc) 0x01EFFF07 = .ok (.cycChrhi 0xEFFF 0x07) ∧
    decode (some .cyc) 0x01F000FE = .ok (.cycLatch 0xF000 0xFE) ∧
    decode (some .cyc) 0x01F00106 = .ok (.cycCtrl 0xF001 0x06) ∧
    decode (some .cyc) 0x01FFFE00 = .ok (.cycAck 0xFFFE 0x00) ∧
    decode (some .cyc) 0x01F00300 = .ok (.romNop 0xF003 0x00) ∧
    decode (some .cyc) 0x04000000 = .ok .clkCyc ∧
    decode (some .cyc) 0x05000000 = .ok .scanNop := by decide

/-- V-30-40, V-30-41, V-30-42, V-30-43, V-30-44, V-30-45, V-30-46, V-30-47, V-30-48, V-30-49,
V-30-50, V-30-51, V-30-53. -/
theorem test_decode_mux :
    decode (some .mux) 0x01480040 = .ok (.muxCount 0x4800 0x40) ∧
    decode (some .mux) 0x014FFFF0 = .ok (.muxCount 0x4FFF 0xF0) ∧
    decode (some .mux) 0x0147FF01 = .ok (.expWr 0x47FF 0x01) ∧
    decode (some .mux) 0x01500001 = .ok (.expWr 0x5000 0x01) ∧
    decode (some .ser) 0x01480040 = .ok (.expWr 0x4800 0x40) ∧
    decode (some .mux) 0x01980021 = .ok (.muxChr 0x9800 0x21) ∧
    decode (some .mux) 0x01BFFF00 = .ok (.muxChr 0xBFFF 0x00) ∧
    decode (some .mux) 0x01C00001 = .ok (.romNop 0xC000 0x01) ∧
    decode (some .mux) 0x01E7FF05 = .ok (.muxPrg0 0xE7FF 0x05) ∧
    decode (some .mux) 0x01E80006 = .ok (.muxPrg1 0xE800 0x06) ∧
    decode (some .mux) 0x01F7FF07 = .ok (.muxPrg2 0xF7FF 0x07) ∧
    decode (some .mux) 0x01F80001 = .ok (.romNop 0xF800 0x01) ∧
    decode (some .mux) 0x04000000 = .ok .clkMux := by decide

/-- V-30-57, V-30-58, V-30-59, V-30-60, V-30-61, V-30-62, V-30-63, R91, R94, R91, R91, R91. -/
theorem test_decode_host :
    decode (none) 0x00800000 = .error .notLoaded ∧
    decode (none) 0x04000000 = .error .notLoaded ∧
    decode (none) 0x00000000 = .error .notLoaded ∧
    decode (none) 0x0C000000 = .error .notAnOperation ∧
    decode (some .fix) 0x08000000 = .error .alreadyLoaded ∧
    decode (some .fix) 0x06000000 = .ok .qmir ∧
    decode (some .fix) 0x07000000 = .ok .qirq ∧
    decode (none) 0x08000000 = .ok .init ∧
    decode (some .mux) 0x09000000 = .ok .save ∧
    decode (some .mux) 0x0A000000 = .ok .restore ∧
    decode (some .mux) 0x0B000000 = .ok .unload := by decide

/-- V-30-01, V-30-16, V-30-36, V-30-45, V-30-55, V-30-62: the words of R104. -/
theorem test_encode :
    encode (.prgRd 0x8000) = 0x00800000 ∧ encode (.serReset 0xFFFF 0x80) = 0x01FFFF80 ∧
    encode (.cycLatch 0xF000 0xFE) = 0x01F000FE ∧ encode (.muxChr 0x9800 0x21) = 0x01980021 ∧
    encode .scanScn = 0x05000000 ∧ encode .qmir = 0x06000000 := by
  decide

/-! ### Bus access -/

/-- V-40-01, V-40-03. -/
theorem test_prgRd :
    outOf (exec (.prgRd 0xC005) (on .fix 1 1)) = some (.byte 0x05) ∧
    outOf (exec (.prgRd 0xC005) (on .fix 8 1)) = some (.byte 0x75) := by decide

/-- S-1, and V-40-06: bank 0x3F of 16. -/
theorem test_prgRd_wraps :
    outOf (exec (.prgRd 0xFFFF) (on .fix 1 1)) = some (.byte 0x0F) ∧
    outOf (exec (.prgRd 0x8000) (onRegs .mux 8 1 fun r => { r with mp := r.mp.set 0 0x3F }))
      = some (.byte 0x78) := by decide

/-- V-40-10, V-40-11: the byte stored, and the byte of `prg_ram_init`. -/
theorem test_ramRd :
    outOf (exec (.ramRd 0x6010) (onRegs .fix 1 1 fun r => { r with prgRam := [(0x10, 0xAB)] }))
      = some (.byte 0xAB) ∧
    outOf (exec (.ramRd 0x6000) (on .fix 1 1)) = some (.byte 0x00) := by decide

/-- S-3 step 8: the gate of SER closed by `PRG = 0x15`. -/
theorem test_ramRd_gated :
    outOf (exec (.ramRd 0x6000) (onRegs .ser 8 1 fun r => { r with prg := 0x15, prgRam := [(0, 0x77)] }))
      = some (.byte 0xAA) := by decide

/-- V-40-11: the last RAM byte is offset 0x1FFF. -/
theorem test_ramWr :
    regOf Regs.prgRam (exec (.ramWr 0x7FFF 0x01) (on .fix 1 1)) = some [(0x1FFF, 0x01)] := by decide

/-- V-40-09: ignored behind a closed gate. -/
theorem test_ramWr_gated :
    regOf Regs.prgRam (exec (.ramWr 0x6000 0x01) (onRegs .ser 8 1 fun r => { r with prg := 0x10 }))
      = some [] := by decide

/-- V-40-12, V-40-13. -/
theorem test_expRd_ntRd :
    outOf (exec (.expRd 0x5000) (on .cyc 1 1)) = some (.byte 0xAA) ∧
    outOf (exec (.ntRd 0x3FFF) (on .dsc 1 1)) = some (.byte 0xAA) := by decide

/-- V-40-14, V-40-18, V-43-27, V-44-24: accepted, nothing changes. -/
theorem test_effectless :
    regOf id (exec (.ntWr 0x2400 0x01) (on .fix 1 1)) = some (loaded .fix 1 1).regs ∧
    regOf id (exec (.expWr 0x5000 0xFF) (on .fix 1 1)) = some (loaded .fix 1 1).regs ∧
    regOf id (exec (.romNop 0xB002 0x0C) (on .cyc 1 1)) = some (loaded .cyc 1 1).regs ∧
    regOf id (exec (.scnNop 0xA001 0x80) (on .scn 1 1)) = some (loaded .scn 1 1).regs := by decide

/-- V-40-04: `CR[3] = 0x25` of 32. -/
theorem test_chrRd :
    outOf (exec (.chrRd 0x0C10) (onRegs .cyc 8 4 fun r => { r with cr := r.cr.set 3 0x25 }))
      = some (.byte 0x0A) := by decide

/-- V-40-17: graphics RAM behind 4 KiB windows; V-40-16: discarded on graphics ROM. -/
theorem test_chrWr :
    regOf Regs.chrRam (exec (.chrWr 0x0000 0x77)
      (onRegs .ser 1 0 fun r => { r with ctrl := 0x1C, chr0 := 3, chr1 := 2 }))
      = some [(0x1000, 0x77)] ∧
    regOf Regs.chrRam (exec (.chrWr 0x0010 0xFF) (on .fix 1 1)) = some [] := by decide

/-! ### Family DSC -/

/-- The eight-bank board of S-2, with its conflict policy. -/
def dscOn (policy : Bool) (bank : Byte) : State :=
  { State.reset with
    inst := some { loaded .dsc 8 0 with
      conflict := policy, regs := { (loaded .dsc 8 0).regs with bank := bank } } }

/-- S-2: with conflicts 0xFF & 0x03, without 0xFF. -/
theorem test_dscBank :
    regOf Regs.bank (exec (.dscBank 0x8003 0xFF) (dscOn true 0)) = some 0x03 ∧
    regOf Regs.bank (exec (.dscBank 0x8003 0xFF) (dscOn false 0)) = some 0xFF := by decide

/-- V-41-15, V-41-16: the ROM byte comes through the current translation. V-41-16 leaves effective bank 2,
where `cpur $8002` returns 0x22, so the same write again takes 0x22 (log entry 16). -/
theorem test_dscBank_translation :
    regOf Regs.bank (exec (.dscBank 0xC005 0x0F) (dscOn true 0)) = some 0x05 ∧
    regOf Regs.bank (exec (.dscBank 0x8002 0xFF) (dscOn true 5)) = some 0x52 ∧
    outOf (exec (.prgRd 0x8002) (dscOn true 0x52)) = some (.byte 0x22) ∧
    regOf Regs.bank (exec (.dscBank 0x8002 0xFF) (dscOn true 0x52)) = some 0x22 := by decide

/-- V-41-10 to V-41-14. -/
theorem test_conflict_policy :
    conflictPolicy .dsc { board .dsc 8 0 .vertical with
      submapper := some 0, conflictWhenUnspecified := true } = true ∧
    conflictPolicy .dsc { board .dsc 8 0 .vertical with submapper := some 3 } = false ∧
    conflictPolicy .dsc { board .dsc 8 0 .vertical with
      submapper := some 1, conflictWhenUnspecified := true } = false ∧
    conflictPolicy .dsc { board .dsc 8 0 .vertical with submapper := some 2 } = true ∧
    conflictPolicy .ser { board .ser 8 0 .vertical with
      submapper := some 2, conflictWhenUnspecified := true } = false := by decide

/-! ### Family SER -/

/-- V-42-02, V-42-03. -/
theorem test_serReset :
    regOf (fun r => (r.sr, r.ctrl)) (exec (.serReset 0x8000 0x80)
      (onRegs .ser 8 1 fun r => { r with sr := ⟨0b011, 3⟩, ctrl := 0x02 })) = some (⟨0, 0⟩, 0x0E) ∧
    regOf (fun r => (r.sr, r.ctrl)) (exec (.serReset 0xFFFF 0xFF)
      (onRegs .ser 8 1 fun r => { r with ctrl := 0x0F })) = some (⟨0, 0⟩, 0x0F) := by decide

/-- V-42-10, V-42-11: `data[6:1]` ignored. -/
theorem test_serSh3_collects :
    regOf Regs.sr (exec (.serSh3 0xE000 0x7F) (on .ser 8 1)) = some ⟨0b00001, 1⟩ ∧
    regOf Regs.sr (exec (.serSh3 0xE000 0x7E) (onRegs .ser 8 1 fun r => { r with sr := ⟨1, 1⟩ }))
      = some ⟨0b00001, 2⟩ := by decide

/-- S-3 step 7. -/
theorem test_serSh3_loads :
    regOf (fun r => (r.sr, r.prg)) (exec (.serSh3 0xE000 0x01)
      (onRegs .ser 8 1 fun r => { r with sr := ⟨0b00101, 4⟩ })) = some (⟨0, 0⟩, 0x15) := by decide

/-- V-42-04 and V-42-06, their fifth writes. -/
theorem test_serSh0 :
    regOf (fun r => (r.ctrl, r.mirr)) (exec (.serSh0 0x8000 0x00)
      (onRegs .ser 8 1 fun r => { r with sr := ⟨0x0F, 4⟩ })) = some (0x0F, .horizontal) ∧
    regOf (fun r => (r.ctrl, r.mirr)) (exec (.serSh0 0x8000 0x00)
      (onRegs .ser 8 1 fun r => { r with sr := ⟨0x0D, 4⟩ })) = some (0x0D, .singleHigh) := by decide

/-- V-42-08, the fifth writes. -/
theorem test_serSh1_serSh2 :
    regOf Regs.chr0 (exec (.serSh1 0xA000 0x01)
      (onRegs .ser 8 1 fun r => { r with sr := ⟨0x02, 4⟩ })) = some 0x12 ∧
    regOf Regs.chr1 (exec (.serSh2 0xC000 0x00)
      (onRegs .ser 8 1 fun r => { r with sr := ⟨0x03, 4⟩ })) = some 0x03 := by decide

/-- V-42-14: four-screen stays, `CTRL` is loaded. -/
theorem test_serSh0_four_screen :
    regOf (fun r => (r.ctrl, r.mirr)) (exec (.serSh0 0x8000 0x00)
      { State.reset with inst := some ((loadInstance .ser (board .ser 1 1 .fourScreen)).update
          fun r => { r with sr := ⟨0x0F, 4⟩ }) }) = some (0x0F, .fourScreen) := by decide

/-- V-42-16, V-42-19, V-42-21: the program windows by P. -/
theorem test_ser_windows :
    (prgTableSer ((loaded .ser 8 1).update fun r => { r with ctrl := 0x00, prg := 0x07 })).map
      Window.sel = [6, 7] ∧
    (prgTableSer ((loaded .ser 8 1).update fun r => { r with ctrl := 0x08, prg := 0x0F })).map
      Window.sel = [0, 15] ∧
    (prgTableSer ((loaded .ser 8 1).update fun r => { r with ctrl := 0x0C, prg := 0x15 })).map
      Window.sel = [5, 7] := by decide

/-- V-42-22, V-42-25: the graphics windows by C. -/
theorem test_ser_chr_windows :
    (chrTableSer ((loaded .ser 8 1).update fun r => { r with ctrl := 0x0C, chr0 := 5, chr1 := 2 })).map
      Window.sel = [4, 5] ∧
    (chrTableSer ((loaded .ser 8 1).update fun r => { r with ctrl := 0x1C, chr0 := 5, chr1 := 2 })).map
      Window.sel = [5, 2] := by decide

/-! ### Family SCN: (latch, counter, enabled, pending, reload) -/

def scnIrq (latch counter : Byte) (enabled pending reload : Bool) : Irq :=
  { latch := latch, counter := counter, enabled := enabled, pending := pending, reload := reload,
    rearm := false, mode := false, prescaler := 114 }

def scnOn (latch counter : Byte) (enabled pending reload : Bool) : State :=
  onRegs .scn 8 8 fun r => { r with irq := scnIrq latch counter enabled pending reload }

/-- V-43-02, V-43-05, V-43-09, V-43-10. -/
theorem test_scanScn :
    regOf Regs.irq (exec .scanScn (scnOn 0 0 true false false)) = some (scnIrq 0 0 true true false) ∧
    regOf Regs.irq (exec .scanScn (scnOn 2 0 false false true)) = some (scnIrq 2 2 false false false) ∧
    regOf Regs.irq (exec .scanScn (scnOn 9 0 true true true)) = some (scnIrq 9 9 true true false) ∧
    regOf Regs.irq (exec .scanScn (scnOn 4 1 true false false)) = some (scnIrq 4 0 true true false) := by decide

/-- V-43-06, V-43-13, V-43-12. -/
theorem test_scn_counter_writes :
    regOf Regs.irq (exec (.scnLatch 0xC000 0x03) (scnOn 5 3 true false false))
      = some (scnIrq 3 3 true false false) ∧
    regOf Regs.irq (exec (.scnReload 0xC001 0x00) (scnOn 3 3 true false false))
      = some (scnIrq 3 3 true false true) ∧
    regOf Regs.irq (exec (.scnDisable 0xE000 0xFF) (scnOn 4 2 true true false))
      = some (scnIrq 4 2 false false false) ∧
    regOf Regs.irq (exec (.scnEnable 0xE001 0x00) (scnOn 4 2 true true false))
      = some (scnIrq 4 2 true true false) := by decide

/-- V-43-22, and V-43-21: `BR[7]`. -/
theorem test_scnBsel_scnBdat :
    regOf Regs.bsel (exec (.scnBsel 0x8000 0x47) (on .scn 8 8)) = some 0x47 ∧
    regOf (fun r => (r.br[6], r.br[7])) (exec (.scnBdat 0x8001 0x15)
      (onRegs .scn 8 8 fun r => { r with bsel := 0x07 })) = some (0x00, 0x15) := by decide

/-- V-43-21, V-43-22: the swap of PM. -/
theorem test_scn_windows :
    (prgTableScn ((loaded .scn 8 8).update fun r =>
      { r with br := (r.br.set 6 0x0A).set 7 0x15 })).map Window.sel = [0x0A, 0x15, 14, 15] ∧
    (prgTableScn ((loaded .scn 8 8).update fun r =>
      { r with br := (r.br.set 6 0x0A).set 7 0x15, bsel := 0x47 })).map Window.sel
      = [14, 0x15, 0x0A, 15] := by decide

/-- V-43-25, V-43-26, V-43-28. -/
theorem test_scnMirr :
    regOf Regs.mirr (exec (.scnMirr 0xA000 0x01) (on .scn 8 8)) = some .horizontal ∧
    regOf Regs.mirr (exec (.scnMirr 0xA000 0xFE) (on .scn 8 8)) = some .vertical ∧
    regOf Regs.mirr (exec (.scnMirr 0xA000 0x01)
      { State.reset with inst := some (loadInstance .scn (board .scn 8 8 .fourScreen)) })
      = some .fourScreen := by decide

/-- V-44-16: no scanline counter outside SCN. -/
theorem test_scanNop :
    regOf id (exec .scanNop (on .cyc 1 1)) = some (loaded .cyc 1 1).regs := by decide

/-! ### Family CYC: (latch, counter, enabled, pending, rearm, mode, prescaler) -/

def cycIrq (latch counter : Byte) (enabled pending rearm mode : Bool) (prescaler : Nat) : Irq :=
  { latch := latch, counter := counter, enabled := enabled, pending := pending, reload := false,
    rearm := rearm, mode := mode, prescaler := prescaler }

def cycOn (latch counter : Byte) (enabled pending rearm mode : Bool) (prescaler : Nat) : State :=
  onRegs .cyc 8 4 fun r =>
    { r with irq := cycIrq latch counter enabled pending rearm mode prescaler }

/-- V-44-02, V-44-09: overflow armed and not armed. -/
theorem test_clkCyc :
    regOf Regs.irq (exec .clkCyc (cycOn 0xFE 0xFF true false false true 114))
      = some (cycIrq 0xFE 0xFE true true false true 114) ∧
    regOf Regs.irq (exec .clkCyc (cycOn 0xFE 0xFF false false false true 114))
      = some (cycIrq 0xFE 0xFE false false false true 114) := by decide

/-- V-44-06: the prescaler. -/
theorem test_clkCyc_prescaler :
    regOf Regs.irq (exec .clkCyc (cycOn 0xFF 0xFF true false false false 1))
      = some (cycIrq 0xFF 0xFF true true false false 114) ∧
    regOf Regs.irq (exec .clkCyc (cycOn 0xFF 0xFF true false false false 114))
      = some (cycIrq 0xFF 0xFF true false false false 113) := by decide

/-- V-44-01, V-44-11. -/
theorem test_cycCtrl :
    regOf Regs.irq (exec (.cycCtrl 0xF001 0x06) (cycOn 0xFE 0 false false false false 7))
      = some (cycIrq 0xFE 0xFE true false false true 114) ∧
    regOf Regs.irq (exec (.cycCtrl 0xF001 0x05) (cycOn 0x80 0x02 false false false true 113))
      = some (cycIrq 0x80 0x02 false false true true 113) := by decide

/-- V-44-03, V-44-12, V-44-01. -/
theorem test_cycAck_cycLatch :
    regOf Regs.irq (exec (.cycAck 0xF002 0x00) (cycOn 0xFE 0xFF true true false true 114))
      = some (cycIrq 0xFE 0xFF false false false true 114) ∧
    regOf Regs.irq (exec (.cycAck 0xFFFE 0x00) (cycOn 0x80 0x02 false false true true 114))
      = some (cycIrq 0x80 0x02 true false true true 114) ∧
    regOf Regs.irq (exec (.cycLatch 0xF000 0xFE) (cycOn 0 3 false false false false 114))
      = some (cycIrq 0xFE 3 false false false false 114) := by decide

/-- V-44-20, V-44-21, V-44-22. -/
theorem test_cyc_banks :
    regOf Regs.p16 (exec (.cycPrg16 0x8000 0x13) (on .cyc 8 4)) = some 3 ∧
    regOf Regs.p8 (exec (.cycPrg8 0xC000 0x25) (on .cyc 8 4)) = some 5 ∧
    regOf (fun r => (r.cr[2], r.cr[6])) (exec (.cycChrlo 0xD002 0x40) (on .cyc 8 4))
      = some (0x40, 0) ∧
    regOf (fun r => (r.cr[3], r.cr[7])) (exec (.cycChrhi 0xEFFF 0x07) (on .cyc 8 4))
      = some (0, 0x07) := by decide

/-- V-44-23. -/
theorem test_cycMirr :
    regOf Regs.mirr (exec (.cycMirr 0xB003 0x08) (on .cyc 8 4)) = some .singleLow ∧
    regOf Regs.mirr (exec (.cycMirr 0xBFFF 0x0C) (on .cyc 8 4)) = some .singleHigh := by decide

/-- V-44-21, V-40-05: the three program windows. -/
theorem test_cyc_windows :
    prgOffset ((loaded .cyc 8 4).update fun r => { r with p16 := 3, p8 := 5 }) 0xBFFF = some 0xFFFF ∧
    prgOffset ((loaded .cyc 8 4).update fun r => { r with p16 := 3, p8 := 5 }) 0xC000 = some 0xA000 ∧
    prgOffset ((loaded .cyc 8 4).update fun r => { r with p16 := 3, p8 := 5 }) 0xFFFF
      = some 0x1FFFF := by decide

/-- V-43-14. -/
theorem test_clkNop :
    regOf id (exec .clkNop (on .scn 1 1)) = some (loaded .scn 1 1).regs := by decide

/-! ### Family MUX -/

/-- V-45-02: bit 7 ignored, and the cycle restarts. -/
theorem test_muxCount :
    regOf Regs.ch (exec (.muxCount 0x4FFF 0xF0) (onRegs .mux 8 8 fun r => { r with ch := ⟨2, 1, 4⟩ }))
      = some ⟨7, 7, 4⟩ := by decide

/-- V-45-01, V-45-02: the tick that serves, and the step down. -/
theorem test_clkMux :
    outOf (exec .clkMux (onRegs .mux 8 8 fun r => { r with ch := ⟨7, 0, 14⟩ })) = some (.service 0) ∧
    regOf Regs.ch (exec .clkMux (onRegs .mux 8 8 fun r => { r with ch := ⟨7, 0, 14⟩ }))
      = some ⟨7, 7, 0⟩ ∧
    outOf (exec .clkMux (on .mux 8 8)) = some .nothing := by decide

/-- V-30-45 (k = 3), R215 to R217. -/
theorem test_mux_banks :
    regOf (fun r => (r.cr[3], r.cr[2])) (exec (.muxChr 0x9800 0x21) (on .mux 8 8)) = some (0x21, 0) ∧
    regOf Regs.mp (exec (.muxPrg0 0xE7FF 0xC5) (on .mux 8 8)) = some ⟨#[0x05, 0, 0], rfl⟩ ∧
    regOf Regs.mp (exec (.muxPrg1 0xE800 0x06) (on .mux 8 8)) = some ⟨#[0, 0x06, 0], rfl⟩ ∧
    regOf Regs.mp (exec (.muxPrg2 0xF7FF 0x07) (on .mux 8 8)) = some ⟨#[0, 0, 0x07], rfl⟩ := by decide

/-! ### Queries and host operations -/

/-- V-43-11 and R230. -/
theorem test_queries :
    outOf (exec .qirq (scnOn 4 0 true false false)) = some (.irq false) ∧
    outOf (exec .qirq (scnOn 4 0 false true false)) = some (.irq true) ∧
    outOf (exec .qmir (on .fix 1 1)) = some (.mirr .vertical) := by decide

/-- R228: the pages of 0x2400 and 0x2800. -/
theorem test_ntPage :
    ntPage .horizontal 0x2400 = 0 ∧ ntPage .horizontal 0x2800 = 1 ∧ ntPage .vertical 0x2400 = 1 ∧
    ntPage .vertical 0x2800 = 0 ∧ ntPage .singleHigh 0x2000 = 1 ∧ ntPage .fourScreen 0x2C00 = 3 := by
  decide

/-- R24: the codes 0 to 4. -/
theorem test_mirrCode :
    [Mirr.horizontal, .vertical, .singleLow, .singleHigh, .fourScreen].map mirrCode
      = [0, 1, 2, 3, 4] := by decide

def initOn (c : Cfg) : State := { State.reset with operand := { State.reset.operand with cfg := c } }

/-- R43: `CTRL` by initial mirroring, the prescaler, and the RAM the board has. -/
theorem test_init :
    regOf (fun r => (r.ctrl, r.irq.prescaler, r.mirr)) (exec .init (initOn (board .ser 1 0 .vertical)))
      = some (0x0E, 114, .vertical) ∧
    regOf Regs.prgRam (exec .init (initOn { board .fix 1 1 .vertical with prgRamInit := [(5, 6)] }))
      = some [(5, 6)] := by decide

/-- R240, R241: an unknown mapper, no banks, ROM of another size. -/
theorem test_init_refuses :
    whyOf (exec .init (initOn { board .fix 1 1 .vertical with mapper := 3 })) = some (.unknownMapper 3) ∧
    whyOf (exec .init (initOn { board .fix 1 1 .vertical with prgBanks := 0 })) = some .badConfig ∧
    whyOf (exec .init (initOn { board .fix 1 1 .vertical with prgRom := ⟨16383, []⟩ }))
      = some .badConfig ∧
    whyOf (exec .init (on .fix 1 1)) = some .alreadyLoaded := by decide

/-- R243, R246. -/
theorem test_save_unload :
    outOf (exec .save (on .ser 1 0)) = some (.blob (blobOf (loaded .ser 1 0))) ∧
    whyOf (exec .unload State.reset) = some .notLoaded ∧
    exec .unload (on .ser 1 0) = .next State.reset :=
  ⟨by decide, by decide, rfl⟩

/-- The machine with `m` loaded and `b` beside the word. -/
def beside (m : Instance) (b : Blob) : State :=
  { State.reset with inst := some m, operand := { State.reset.operand with blob := b } }

def restoreOn (b : Blob) : State := beside (loaded .ser 1 0) b

/-- R245: what the family uses comes from the blob; a blob of another family or version is refused. -/
theorem test_restore :
    regOf Regs.chr0 (exec .restore (restoreOn
      { blobOf (loaded .ser 1 0) with regs := { (loaded .ser 1 0).regs with chr0 := 9 } })) = some 9 ∧
    regOf (fun r => (r.bsel, r.irq.pending)) (exec .restore (beside (loaded .scn 1 0)
      { blobOf (loaded .scn 1 0) with
        regs := { (loaded .scn 1 0).regs with bsel := 0x46, irq := scnIrq 0 0 true true false } }))
      = some (0x46, true) ∧
    whyOf (exec .restore (restoreOn { blobOf (loaded .ser 1 0) with family := .fix }))
      = some .foreignBlob ∧
    whyOf (exec .restore (restoreOn { blobOf (loaded .ser 1 0) with version := .other 0 }))
      = some .foreignBlob := by decide

/-- R245: the blob of another cartridge of the family is accepted, and what a rule says of this one holds
after it: no interrupt in FIX (R232), its initial mode (R225), the four-screen lock (R227), the mode that
`CTRL` names in SER (R41 (g), R154: 0x0C names single-screen-low). Whatever the free values are, a divider of
15 comes below a divisor of 15 and a prescaler of 114 to a reload of 113 at most (R41 (c), (d)), while 14 and
113 are taken as they are. -/
theorem test_restore_foreign :
    regOf (fun r => r.irq.pending) (exec .restore (beside (loaded .fix 1 0)
      { blobOf (loaded .fix 1 0) with
        regs := { (loaded .fix 1 0).regs with irq := scnIrq 0 0 true true false } })) = some false ∧
    regOf Regs.mirr (exec .restore (beside (loaded .fix 1 0)
      (blobOf (loadInstance .fix (board .fix 1 0 .horizontal))))) = some .vertical ∧
    regOf Regs.mirr (exec .restore (beside (loadInstance .scn (board .scn 1 0 .fourScreen))
      (blobOf (loaded .scn 1 0)))) = some .fourScreen ∧
    regOf Regs.mirr (exec .restore (restoreOn
      (blobOf (loadInstance .ser (board .ser 1 0 .fourScreen))))) = some .singleLow ∧
    blobFits (loaded .mux 1 0)
      (blobOf ((loaded .mux 1 0).update fun r => { r with ch := ⟨0, 0, 15⟩ })) = true ∧
    ((Sched.mk 0 0 14).restore 15).div = 14 ∧ ((Sched.mk 0 0 15).restore 15).div < 15 ∧
    restoredPrescaler 113 113 = 113 ∧ restoredPrescaler 113 114 ≤ 113 :=
  ⟨by decide, by decide, by decide, by decide, by decide, rfl, Sched.restore_div_lt (by decide) _, rfl,
    restoredPrescaler_le ..⟩

/-- Why R245 cannot be followed to the letter on such a blob (log entry 5): it accepts this one, and the state
the blob holds is none R225 allows on this cartridge (FIX, vertical; the blob is horizontal), nor, on a
four-screen cartridge, one R227 allows. -/
theorem restore_rules_disagree :
    (blobFits (loaded .fix 1 0) (blobOf (loadInstance .fix (board .fix 1 0 .horizontal))) = true ∧
      ¬ RegsInv (loaded .fix 1 0).cfg .fix
        (blobOf (loadInstance .fix (board .fix 1 0 .horizontal))).regs) ∧
    (blobFits (loadInstance .scn (board .scn 1 0 .fourScreen)) (blobOf (loaded .scn 1 0)) = true ∧
      ¬ RegsInv (board .scn 1 0 .fourScreen) .scn (blobOf (loaded .scn 1 0)).regs) :=
  ⟨⟨by decide, fun h => absurd (h.fixedMode (.inl rfl)) (by decide)⟩,
    by decide, fun h => absurd (h.locked rfl) (by decide)⟩

/-! ### Reset and step -/

/-- The unloaded phase refuses what is not INIT (V-30-57), and nothing presented changes nothing. -/
theorem test_reset :
    step State.reset = .next State.reset ∧
    whyOf (step { State.reset with requests := [⟨0x00800000, State.reset.operand⟩] })
      = some .notLoaded := ⟨rfl, by decide⟩

/-- A word placed as the next operation is the one that runs. -/
theorem test_withFetchWord :
    outOf (step (State.reset.withFetchWord 32 0x00800000)) = some (.byte 0) ∧
    regOf (fun r => r.br[0]) (step (State.reset.withFetchWord 32 0x018FFF13)) = some 0x13 ∧
    regOf Regs.mirr (step (State.reset.withFetchWord 32 0x01BFFF0C)) = some .singleHigh := by decide

/-- The memory of reset and of a fresh load is in canonical form. -/
theorem test_memory_wf :
    State.reset.inst = none ∧ Mem.wf ramSize (loaded .fix 1 0).regs.prgRam = true ∧
    Mem.wf ramSize (loaded .fix 1 0).regs.chrRam = true := by decide

/-- Writing the byte an unlisted offset reads as removes the entry. -/
theorem test_memory_write :
    Mem.write [(3, 1)] 3 0 = [] ∧ Mem.write [(3, 1)] 1 5 = [(1, 5), (3, 1)] ∧
    Mem.wf 8 [(3, 1), (1, 5)] = false ∧ Mem.wf 8 [(8, 1)] = false ∧ Mem.wf 8 [(3, 0)] = false := by
  decide

/-! ### Witnesses: the hypotheses of each obligation can be met -/

theorem witness_DecodeInvertsEncode :
    Instr.wf (some .cyc) (.cycMirr 0xBFFF 0xFF) = true ∧ Instr.wf (some .mux) (.expWr 0x4FFF 0) = false ∧
    Instr.wf (some .mux) (.muxCount 0x4FFF 0xFF) = true ∧ Instr.wf none .init = true := by decide

theorem witness_DecodedWordEncodesItsInstruction :
    decode (some .mux) 0x01BFFF00 = .ok (.muxChr 0xBFFF 0x00) ∧ decode none 0x08000000 = .ok .init := by
  decide

/-- One word on each side of every clause. -/
theorem witness_DecodeRefusesInOrder :
    (0x0C000000 : Word).toNat / 2 ^ 24 = 0x0C ∧ (0x04000100 : Word).toNat / 2 ^ 8 % 2 ^ 16 = 1 ∧
    (0x00800001 : Word).toNat % 2 ^ 8 = 1 ∧ (0x08000000 : Word).toNat / 2 ^ 24 = 8 ∧
    (0x01401F00 : Word).toNat / 2 ^ 8 % 2 ^ 16 = 0x401F ∧
    (0x01402000 : Word).toNat / 2 ^ 8 % 2 ^ 16 = 0x4020 ∧
    (0x023FFF00 : Word).toNat / 2 ^ 8 % 2 ^ 16 = 0x3FFF := by decide

def presenting (s : State) (w : Word) : State := { s with requests := [⟨w, s.operand⟩] }

theorem witness_StepRunsDecodedOperation :
    ((presenting (on .fix 1 1) 0x00800000).requests = [⟨0x00800000, State.reset.operand⟩] ∧
      decode ((presenting (on .fix 1 1) 0x00800000).inst.map Instance.family) 0x00800000
        = .ok (.prgRd 0x8000)) ∧
    ((presenting State.reset 0x00800000).requests = [⟨0x00800000, State.reset.operand⟩] ∧
      decode ((presenting State.reset 0x00800000).inst.map Instance.family) 0x00800000
        = .error .notLoaded) ∧
    (on .fix 1 1).requests = [] := by decide

theorem witness_UnloadedBlockRefusesAllButInit : State.reset.inst = none ∧ Instr.unload ≠ .init := by
  decide

/-- The addresses at both ends, and two instances of one family with other registers. -/
theorem witness_WindowsCoverEveryAddressOnce :
    ((prgTable (loaded .ser 8 1)).filter fun w => w.covers 0x8000).length = 1 ∧
    ((prgTable (loaded .ser 8 1)).filter fun w => w.covers 0xFFFF).length = 1 ∧
    ((chrTable (loaded .mux 8 1)).filter fun w => w.covers 0x1FFF).length = 1 ∧
    (loaded .ser 8 1).family = ((loaded .ser 1 0).update fun r => { r with ctrl := 0 }).family := by
  decide

theorem witness_OffsetsStayInsideTheSpace :
    1 ≤ (loaded .mux 1 0).cfg.prgBanks ∧
    prgOffset ((loaded .mux 1 0).update fun r => { r with mp := r.mp.set 0 0x3F }) 0x9FFF = some 0x3FFF ∧
    chrOffset (loaded .mux 1 0) 0x1FFF = some 0x03FF := by decide

def busy (r : Regs) : Regs := { r with bank := 0xFF, prg := 0x1F, br := r.br.set 6 0xFF, p8 := 0x1F }

/-- An address in a fixed window of each kind, with two settings of the bank registers. -/
theorem witness_FixedWindowsIgnoreBankRegisters :
    (loaded .dsc 8 0).cfg = ((loaded .dsc 8 0).update busy).cfg ∧
    (loaded .dsc 8 0).family = ((loaded .dsc 8 0).update busy).family ∧
    serP (loaded .dsc 8 0).regs = serP ((loaded .dsc 8 0).update busy).regs ∧
    scnPm (loaded .dsc 8 0).regs = scnPm ((loaded .dsc 8 0).update busy).regs ∧
    inFixedWindow (loaded .dsc 8 0) 0xC000 ∧ inFixedWindow (loaded .ser 8 0) 0xFFFF ∧
    inFixedWindow (loaded .scn 8 0) 0xC000 ∧
    inFixedWindow ((loaded .scn 8 0).update fun r => { r with bsel := 0x40 }) 0x9FFF ∧
    inFixedWindow ((loaded .ser 8 0).update fun r => { r with ctrl := 0x08 }) 0xBFFF ∧
    inFixedWindow (loaded .cyc 8 0) 0xE000 := by
  refine ⟨rfl, rfl, by decide, by decide, ?_, .inr ⟨by decide, by decide⟩,
    .inr (.inl ⟨by decide, by decide⟩), .inr (.inr ⟨by decide, by decide, by decide⟩),
    .inl ⟨by decide, by decide, by decide⟩, ?_⟩
  · show 0xC000 ≤ 0xC000
    exact Nat.le_refl _
  · show 0xE000 ≤ 0xE000
    exact Nat.le_refl _

theorem witness_LastBankAtTopAfterLoad :
    1 ≤ (board .ser 1 0 .vertical).prgBanks ∧ 0xE000 ≤ (0xE000 : Addr).toNat := by decide

theorem witness_OneBankFixBoardMirrors :
    Accepts (on .fix 1 1) (loaded .fix 1 1) (.prgRd 0xBFFF) ∧
    (loaded .fix 1 1).family = .fix ∧
    (loaded .fix 1 1).cfg.prgBanks = 1 ∧
    (0xBFFF : Addr).toNat < 0xC000 ∧
    (0xFFFF : Addr).toNat = (0xBFFF : Addr).toNat + 0x4000 :=
  ⟨⟨rfl, by decide⟩, rfl, rfl, by decide, by decide⟩

/-- Both ends of the windows of every family, with the selectors of R123, R145, R158, R181, R201 and
R218 read off by hand. -/
theorem witness_ProgramReadReturnsWindowByte :
    Accepts (on .fix 1 1) (loaded .fix 1 1) (.prgRd 0x8000) ∧
    Accepts (on .mux 8 1) (loaded .mux 8 1) (.prgRd 0xFFFF) ∧
    [0xBFFF, 0xC000].map (shownPrg (loaded .fix 8 1)) = [(0, 16384), (7, 16384)] ∧
    [0xBFFF, 0xC000].map (shownPrg ((loaded .dsc 8 1).update fun r => { r with bank := 0xFE }))
      = [(0xFE, 16384), (7, 16384)] ∧
    ([0x04, 0x08, 0x0C].map fun ctrl => [0xBFFF, 0xC000].map
      (shownPrg ((loaded .ser 8 1).update fun r => { r with ctrl := ctrl, prg := 0x17 })))
      = [[(6, 16384), (7, 16384)], [(0, 16384), (7, 16384)], [(7, 16384), (7, 16384)]] ∧
    ([0x06, 0x46].map fun bsel => [0x9FFF, 0xA000, 0xC000, 0xE000].map
      (shownPrg ((loaded .scn 8 1).update fun r =>
        { r with bsel := bsel, br := ⟨#[0, 0, 0, 0, 0, 0, 9, 5], rfl⟩ })))
      = [[(9, 8192), (5, 8192), (14, 8192), (15, 8192)],
        [(14, 8192), (5, 8192), (9, 8192), (15, 8192)]] ∧
    [0xBFFF, 0xC000, 0xE000].map (shownPrg ((loaded .cyc 8 1).update fun r =>
      { r with p16 := 3, p8 := 0x1F })) = [(3, 16384), (0x1F, 8192), (15, 8192)] ∧
    [0x9FFF, 0xA000, 0xDFFF, 0xE000].map (shownPrg ((loaded .mux 8 1).update fun r =>
      { r with mp := ⟨#[1, 2, 0x3F], rfl⟩ })) = [(1, 8192), (2, 8192), (0x3F, 8192), (15, 8192)] :=
  ⟨⟨rfl, by decide⟩, ⟨rfl, by decide⟩, by decide, by decide, by decide, by decide, by decide, by decide⟩

theorem witness_RamReadReturnsByteOrOpenBus :
    Accepts (on .fix 1 1) (loaded .fix 1 1) (.ramRd 0x6000) ∧
    Accepts (on .ser 1 1) (loaded .ser 1 1) (.ramRd 0x7FFF) ∧
    ((loaded .ser 1 1).update fun r => { r with prg := 0x10 }).regs.prg.getLsbD 4 = true :=
  ⟨⟨rfl, by decide⟩, ⟨rfl, by decide⟩, by decide⟩

theorem witness_UndrivenReadsReturnOpenBus :
    Accepts (on .mux 1 1) (loaded .mux 1 1) (.expRd 0x4800) ∧
    Accepts (on .fix 1 1) (loaded .fix 1 1) (.expRd 0x5FFF) ∧
    Accepts (on .fix 1 1) (loaded .fix 1 1) (.ntRd 0x3FFF) :=
  ⟨⟨rfl, by decide⟩, ⟨rfl, by decide⟩, ⟨rfl, by decide⟩⟩

theorem witness_RamWriteStoresOneByte :
    Accepts (on .fix 1 0) (loaded .fix 1 0) (.ramWr 0x7FFF 0xFF) ∧
    Accepts (on .ser 1 0) (loaded .ser 1 0) (.ramWr 0x6000 0x00) ∧
    RamInv (loaded .fix 1 0).cfg (loaded .fix 1 0).regs ∧
    RamInv (loaded .ser 1 0).cfg (loaded .ser 1 0).regs :=
  ⟨⟨rfl, by decide⟩, ⟨rfl, by decide⟩, ⟨by decide, by decide⟩, ⟨by decide, by decide⟩⟩

theorem witness_EffectlessOperationsChangeNothing :
    Accepts (on .fix 1 1) (loaded .fix 1 1) (.expWr 0x4800 1) ∧
    Accepts (on .mux 1 1) (loaded .mux 1 1) (.romNop 0xFFFF 1) ∧
    Accepts (on .cyc 1 1) (loaded .cyc 1 1) (.romNop 0xF003 1) ∧
    Accepts (on .fix 1 1) (loaded .fix 1 1) (.ntWr 0x2000 1) ∧
    Accepts (on .scn 1 1) (loaded .scn 1 1) (.scnNop 0xBFFF 1) ∧
    Accepts (on .ser 1 1) (loaded .ser 1 1) (.clkNop) ∧
    Accepts (on .mux 1 1) (loaded .mux 1 1) (.scanNop) ∧
    Instr.clkNop ∈ [Instr.expWr 0 0, .romNop 0 0, .ntWr 0 0, .scnNop 0 0, .clkNop, .scanNop] :=
  ⟨⟨rfl, by decide⟩, ⟨rfl, by decide⟩, ⟨rfl, by decide⟩, ⟨rfl, by decide⟩, ⟨rfl, by decide⟩, ⟨rfl, by decide⟩, ⟨rfl, by decide⟩, by decide⟩

/-- The windows of every family, with the selectors of R123, R159, R182, R201 and R218 read off by
hand. -/
theorem witness_GraphicsReadReturnsWindowByte :
    Accepts (on .ser 1 0) (loaded .ser 1 0) (.chrRd 0x1FFF) ∧
    Accepts (on .mux 8 1) (loaded .mux 8 1) (.chrRd 0x0000) ∧
    shownChr (loaded .dsc 8 1) 0x1FFF = (0, 8192) ∧
    ([0x0F, 0x1F].map fun ctrl => [0x0FFF, 0x1000].map
      (shownChr ((loaded .ser 8 8).update fun r => { r with ctrl := ctrl, chr0 := 5, chr1 := 8 })))
      = [[(4, 4096), (5, 4096)], [(5, 4096), (8, 4096)]] ∧
    ([0x46, 0x86].map fun bsel => ((List.range 8).map fun k =>
      (shownChr ((loaded .scn 8 8).update fun r =>
        { r with bsel := bsel, br := ⟨#[0x0B, 0x20, 2, 3, 4, 5, 6, 7], rfl⟩ }) (0x400 * k)).1))
      = [[0x0A, 0x0B, 0x20, 0x21, 2, 3, 4, 5], [2, 3, 4, 5, 0x0A, 0x0B, 0x20, 0x21]] ∧
    ((List.range 8).map fun k => shownChr ((loaded .mux 8 8).update fun r =>
      { r with cr := ⟨#[10, 11, 12, 13, 14, 15, 16, 17], rfl⟩ }) (0x400 * k + 0x3FF))
      = (List.range 8).map fun k => (10 + k, 1024) :=
  ⟨⟨rfl, by decide⟩, ⟨rfl, by decide⟩, by decide, by decide, by decide, by decide⟩

theorem witness_GraphicsWriteStoresThroughWindow :
    Accepts (on .mux 1 0) (loaded .mux 1 0) (.chrWr 0x1FFF 0xFF) ∧
    RamInv (loaded .mux 1 0).cfg (loaded .mux 1 0).regs ∧
    Accepts (on .fix 1 1) (loaded .fix 1 1) (.chrWr 0x0000 1) ∧
    RamInv (loaded .fix 1 1).cfg (loaded .fix 1 1).regs :=
  ⟨⟨rfl, by decide⟩, ⟨by decide, by decide⟩, ⟨rfl, by decide⟩, ⟨by decide, by decide⟩⟩

theorem witness_StoredByteIsReadBack :
    Accepts (on .fix 1 0) (loaded .fix 1 0) (.ramWr 0x7FFF 0xFF) ∧
    RamInv (loaded .fix 1 0).cfg (loaded .fix 1 0).regs ∧
    ramAnswers (loaded .fix 1 0) = true ∧
    Accepts (on .mux 1 0) (loaded .mux 1 0) (.chrWr 0x0000 0xFF) ∧
    Accepts (on .mux 1 0) (loaded .mux 1 0) (.chrRd 0x1C00) ∧
    RamInv (loaded .mux 1 0).cfg (loaded .mux 1 0).regs ∧
    (loaded .mux 1 0).cfg.chrBanks = 0 ∧
    chrOffset (loaded .mux 1 0) 0x1C00 = chrOffset (loaded .mux 1 0) 0x0000 :=
  ⟨⟨rfl, by decide⟩, ⟨by decide, by decide⟩, by decide, ⟨rfl, by decide⟩, ⟨rfl, by decide⟩, ⟨by decide, by decide⟩, rfl, by decide⟩

theorem witness_ReadsHaveNoSideEffect :
    Instr.chrRd 0x1FFF ∈ [Instr.prgRd 0x1FFF, .ramRd 0x1FFF, .expRd 0x1FFF, .chrRd 0x1FFF, .ntRd 0x1FFF, .qmir,
      .qirq] ∧
    exec (.chrRd 0x1FFF) (on .fix 1 1)
      = .next { on .fix 1 1 with out := .byte (chrByte (loaded .fix 1 1) 0x1FFF) } :=
  ⟨by decide, rfl⟩

theorem witness_OnlyStoresChangeMemory :
    ((on .fix 1 0).inst = some (loaded .fix 1 0) ∧
      exec (.chrWr 0 1) (on .fix 1 0) = .next ((on .fix 1 0).answer
        ((loaded .fix 1 0).update fun r => { r with chrRam := [(0, 1)] }) .nothing) ∧
      Instr.chrWr 0 1 ≠ .restore ∧
      (∀ a d, Instr.chrWr 0 1 ≠ .ramWr a d)) ∧
    ((on .cyc 1 0).inst = some (loaded .cyc 1 0) ∧ (loaded .cyc 1 0).Configured ∧
      exec (.cycAck 0xFFFE 0) (on .cyc 1 0)
        = .next ((on .cyc 1 0).answer (loaded .cyc 1 0) .nothing)) ∧
    ((loadInstance .dsc { board .dsc 8 0 .vertical with submapper := some 2 }).conflict = true ∧
      (loadInstance .dsc { board .dsc 8 0 .vertical with submapper := some 2 }).Configured ∧
      regOf Regs.bank (exec (.dscBank 0xC005 0x0F) (dscOn true 0)) = some 0x05 ∧
      ¬ (0xC005 : Addr).toNat < 0xC000) :=
  ⟨⟨rfl, rfl, by decide, nofun⟩, ⟨rfl, ⟨rfl, rfl, by decide⟩, rfl⟩, rfl, ⟨rfl, rfl, by decide⟩,
    by decide, by decide⟩

theorem witness_BankWriteTakesEffectiveByte :
    Accepts (on .dsc 8 0) (loaded .dsc 8 0) (.dscBank 0xFFFF 0xFF) ∧
    Accepts (dscOn true 5) { (loaded .dsc 8 0).update (fun r => { r with bank := 5 }) with conflict := true }
      (.dscBank 0x8000 0xFF) :=
  ⟨⟨rfl, by decide⟩, ⟨rfl, by decide⟩⟩

theorem witness_ArbiterOnlyClearsBits :
    (loaded .dsc 8 0).conflict = false ∧
    prgByte { loaded .dsc 8 0 with cfg := { board .dsc 8 0 .vertical with prgRom := ⟨131072, [(0, 0xFF)]⟩ } } 0x8000
      = 0xFF :=
  ⟨rfl, by decide⟩

theorem witness_SerialResetAbandonsSequence :
    Accepts (on .ser 8 1) (loaded .ser 8 1) (.serReset 0x8000 0x80) ∧
    Accepts (on .ser 8 1) (loaded .ser 8 1) (.serReset 0xFFFF 0xFF) :=
  ⟨⟨rfl, by decide⟩, ⟨rfl, by decide⟩⟩

theorem witness_ShiftWriteCollectsOrLoads :
    Accepts (on .ser 1 0) (loaded .ser 1 0) (shiftWrite 0 0x9FFF 0x7F) ∧
    Accepts (on .ser 1 0) (loaded .ser 1 0) (shiftWrite 1 0xBFFF 0x01) ∧
    Accepts (on .ser 1 0) (loaded .ser 1 0) (shiftWrite 2 0xC000 0x00) ∧
    Accepts (on .ser 1 0) (loaded .ser 1 0) (shiftWrite 3 0xFFFF 0x01) ∧
    (loaded .ser 1 0).Configured ∧
    (loaded .ser 1 0).regs.sr.cnt.val < 4 ∧
    ¬ ((loaded .ser 1 0).update fun r => { r with sr := ⟨0x0F, 4⟩ }).regs.sr.cnt.val < 4 :=
  ⟨⟨rfl, by decide⟩, ⟨rfl, by decide⟩, ⟨rfl, by decide⟩, ⟨rfl, by decide⟩, ⟨rfl, rfl, by decide⟩, by decide, by decide⟩

theorem witness_FiveShiftWritesLoadFifthQuarter :
    (on .ser 1 0).inst = some (loaded .ser 1 0) ∧
    (loaded .ser 1 0).family = .ser ∧
    (loaded .ser 1 0).Configured ∧
    (loaded .ser 1 0).regs.sr = ⟨0, 0⟩ ∧
    (∀ i ∈ [shiftWrite 0 0x8000 1, shiftWrite 1 0xA000 1, shiftWrite 2 0xC000 0, shiftWrite 0 0x8000 0,
      shiftWrite 3 0xFFFF 0], i.inFamily .ser = true) ∧
    (0x03 : BitVec 5) = BitVec.ofNat 5 ((1 : Byte).toNat % 2 + 2 * ((1 : Byte).toNat % 2)
      + 4 * ((0 : Byte).toNat % 2) + 8 * ((0 : Byte).toNat % 2) + 16 * ((0 : Byte).toNat % 2)) :=
  ⟨rfl, rfl, ⟨rfl, rfl, by decide⟩, rfl, by decide, by decide⟩

theorem witness_OnlySerialWritesMoveTheSequence :
    (on .ser 1 0).inst = some (loaded .ser 1 0) ∧
    exec .clkNop (on .ser 1 0) = .next ((on .ser 1 0).answer (loaded .ser 1 0) .nothing) ∧
    Instr.clkNop ≠ .restore ∧
    (∀ a d, Instr.clkNop ≠ .serReset a d) ∧
    (∀ q a d, Instr.clkNop ≠ shiftWrite q a d) :=
  ⟨rfl, rfl, by decide, nofun, (fun q a d h => by
    unfold shiftWrite at h
    split at h <;> cases h)⟩

theorem witness_StrobeStepsScanlineCounter :
    Accepts (scnOn 4 1 true false false)
      ((loaded .scn 8 8).update fun r => { r with irq := scnIrq 4 1 true false false }) .scanScn ∧
    (0 : Byte) = if (scnIrq 4 1 true false false).counter = 0 ∨ (scnIrq 4 1 true false false).reload = true
      then 4 else 1 - 1 :=
  ⟨⟨rfl, by decide⟩, by decide⟩

theorem witness_ScanlineCounterWrites :
    (loaded .scn 1 0).Configured ∧
    Accepts (on .scn 1 0) (loaded .scn 1 0) (.scnLatch 0xDFFE 0xFF) ∧
    Accepts (on .scn 1 0) (loaded .scn 1 0) (.scnReload 0xC001 0) ∧
    Accepts (on .scn 1 0) (loaded .scn 1 0) (.scnDisable 0xE000 0) ∧
    Accepts (on .scn 1 0) (loaded .scn 1 0) (.scnEnable 0xFFFF 0) :=
  ⟨⟨rfl, rfl, by decide⟩, ⟨rfl, by decide⟩, ⟨rfl, by decide⟩, ⟨rfl, by decide⟩, ⟨rfl, by decide⟩⟩

theorem witness_ScanlineBankWrites :
    (loaded .scn 1 0).Configured ∧
    Accepts (on .scn 1 0) (loaded .scn 1 0) (.scnBsel 0x9FFE 0xFF) ∧
    Accepts (on .scn 1 0) (loaded .scn 1 0) (.scnBdat 0x8001 0xFF) :=
  ⟨⟨rfl, rfl, by decide⟩, ⟨rfl, by decide⟩, ⟨rfl, by decide⟩⟩

theorem witness_MirroringWritesSelectMode :
    (loaded .scn 1 0).Configured ∧
    Accepts (on .scn 1 0) (loaded .scn 1 0) (.scnMirr 0xA000 1) ∧
    (loaded .cyc 1 0).Configured ∧
    Accepts (on .cyc 1 0) (loaded .cyc 1 0) (.cycMirr 0xBFFF 0x0C) ∧
    (loaded .cyc 1 0).cfg.initMirr ≠ .fourScreen ∧
    (loadInstance .cyc (board .cyc 1 0 .fourScreen)).Configured :=
  ⟨⟨rfl, rfl, by decide⟩, ⟨rfl, by decide⟩, ⟨rfl, rfl, by decide⟩, ⟨rfl, by decide⟩, by decide, ⟨rfl, rfl, by decide⟩⟩

theorem witness_ScanlineInterruptTiming :
    Accepts (scnOn 20 0 true false false)
      ((loaded .scn 8 8).update fun r => { r with irq := scnIrq 20 0 true false false }) .scanScn ∧
    20 = ((loaded .scn 8 8).update fun r => { r with irq := scnIrq 20 0 true false false }).regs.irq.latch.toNat ∧
    (((loaded .scn 8 8).update fun r => { r with irq := scnIrq 20 0 true false false }).regs.irq.counter = 0 ∨
      ((loaded .scn 8 8).update fun r => { r with irq := scnIrq 20 0 true false false }).regs.irq.reload = true) ∧
    ((loaded .scn 8 8).update fun r => { r with irq := scnIrq 20 0 true false false }).regs.irq.enabled = true ∧
    ((loaded .scn 8 8).update fun r => { r with irq := scnIrq 20 0 true false false }).regs.irq.pending = false :=
  ⟨⟨rfl, by decide⟩, rfl, .inl rfl, rfl, rfl⟩

theorem witness_PendingIsSticky :
    (scnOn 4 2 true true false).inst = some ((loaded .scn 8 8).update fun r => { r with irq := scnIrq 4 2 true true false }) ∧
    exec (.scnEnable 0xE001 0) (scnOn 4 2 true true false) = .next (scnOn 4 2 true true false) ∧
    (∀ a d, Instr.scnEnable 0xE001 0 ≠ .scnDisable a d) ∧
    (∀ a d, Instr.scnEnable 0xE001 0 ≠ .cycAck a d) :=
  ⟨rfl, rfl, nofun, nofun⟩

theorem witness_PendingIsRaisedOnlyWhenEnabled :
    regOf (fun r => r.irq.pending) (exec .scanScn (scnOn 4 1 true false false)) = some true ∧
    regOf (fun r => r.irq.pending) (exec .clkCyc (cycOn 0 0xFF true false false true 114)) = some true ∧
    regOf (fun r => r.irq.pending) (exec .restore (beside (loaded .scn 8 8)
      { blobOf (loaded .scn 8 8) with
        regs := { (loaded .scn 8 8).regs with irq := scnIrq 4 0 true true false } })) = some true :=
  ⟨by decide, by decide, by decide⟩

theorem witness_CycleTickCounts :
    Accepts (on .cyc 1 0) (loaded .cyc 1 0) (.clkCyc) ∧
    false = ((loaded .cyc 1 0).regs.irq.mode || decide ((loaded .cyc 1 0).regs.irq.prescaler ≤ 1)) ∧
    true = ((cycIrq 0 0 true false false false 1).mode || decide ((cycIrq 0 0 true false false false 1).prescaler ≤ 1)) :=
  ⟨⟨rfl, by decide⟩, by decide, by decide⟩

theorem witness_CycleCounterWrites :
    (loaded .cyc 1 0).Configured ∧
    Accepts (on .cyc 1 0) (loaded .cyc 1 0) (.cycLatch 0xF000 0xFF) ∧
    Accepts (on .cyc 1 0) (loaded .cyc 1 0) (.cycCtrl 0xFFFD 0x02) ∧
    Accepts (on .cyc 1 0) (loaded .cyc 1 0) (.cycAck 0xFFFE 0) :=
  ⟨⟨rfl, rfl, by decide⟩, ⟨rfl, by decide⟩, ⟨rfl, by decide⟩, ⟨rfl, by decide⟩⟩

theorem witness_CycleBankWrites :
    (loaded .cyc 1 0).Configured ∧
    Accepts (on .cyc 1 0) (loaded .cyc 1 0) (.cycPrg16 0x8FFF 0xFF) ∧
    Accepts (on .cyc 1 0) (loaded .cyc 1 0) (.cycPrg8 0xC000 0xFF) ∧
    Accepts (on .cyc 1 0) (loaded .cyc 1 0) (.cycChrlo 0xDFFF 0xFF) ∧
    Accepts (on .cyc 1 0) (loaded .cyc 1 0) (.cycChrhi 0xE000 0xFF) :=
  ⟨⟨rfl, rfl, by decide⟩, ⟨rfl, by decide⟩, ⟨rfl, by decide⟩, ⟨rfl, by decide⟩, ⟨rfl, by decide⟩⟩

theorem witness_CycleModeInterruptTiming :
    Accepts (on .cyc 1 0) (loaded .cyc 1 0) (.cycCtrl 0xF001 0x06) ∧
    (loaded .cyc 1 0).Configured ∧
    (0x06 : Byte).getLsbD 1 = true ∧
    (0x06 : Byte).getLsbD 2 = true ∧
    (loaded .cyc 1 0).regs.irq.pending = false ∧
    0 = (loaded .cyc 1 0).regs.irq.latch.toNat :=
  ⟨⟨rfl, by decide⟩, ⟨rfl, rfl, by decide⟩, by decide, by decide, rfl, rfl⟩

theorem witness_ScanlineModeInterruptTiming :
    Accepts (on .cyc 1 0) (loaded .cyc 1 0) (.cycCtrl 0xF001 0x02) ∧
    (loaded .cyc 1 0).Configured ∧
    (0x02 : Byte).getLsbD 1 = true ∧
    (0x02 : Byte).getLsbD 2 = false ∧
    (loaded .cyc 1 0).regs.irq.pending = false ∧
    0 = (loaded .cyc 1 0).regs.irq.latch.toNat ∧
    114 = (loaded .cyc 1 0).cfg.prescalerReload :=
  ⟨⟨rfl, by decide⟩, ⟨rfl, rfl, by decide⟩, by decide, by decide, rfl, rfl, rfl⟩

theorem witness_ChannelCountWriteRestartsCycle :
    Accepts (on .mux 1 0) (loaded .mux 1 0) (.muxCount 0x4800 0xF0) ∧
    Accepts (on .mux 1 0) (loaded .mux 1 0) (.muxCount 0x4FFF 0xFF) :=
  ⟨⟨rfl, by decide⟩, ⟨rfl, by decide⟩⟩

theorem witness_ChannelTickServesOneChannel :
    Accepts (on .mux 1 0) (loaded .mux 1 0) (.clkMux) ∧
    ¬ (loaded .mux 1 0).regs.ch.div + 1 = (loaded .mux 1 0).cfg.channelDivisor ∧
    ((loaded .mux 1 0).update fun r => { r with ch := ⟨7, 0, 14⟩ }).regs.ch.div + 1
      = (loaded .mux 1 0).cfg.channelDivisor :=
  ⟨⟨rfl, by decide⟩, by decide, by decide⟩

theorem witness_MuxBankWrites :
    (loaded .mux 1 0).Configured ∧
    Accepts (on .mux 1 0) (loaded .mux 1 0) (.muxChr 0xBFFF 0xFF) ∧
    Accepts (on .mux 1 0) (loaded .mux 1 0) (.muxPrg0 0xE000 0xFF) ∧
    Accepts (on .mux 1 0) (loaded .mux 1 0) (.muxPrg1 0xEFFF 0xFF) ∧
    Accepts (on .mux 1 0) (loaded .mux 1 0) (.muxPrg2 0xF7FF 0xFF) :=
  ⟨⟨rfl, rfl, by decide⟩, ⟨rfl, by decide⟩, ⟨rfl, by decide⟩, ⟨rfl, by decide⟩, ⟨rfl, by decide⟩⟩

/-- With the divider at zero and in mid-count. -/
theorem witness_ChannelServiceSequence :
    Accepts (on .mux 1 0) (loaded .mux 1 0) (.muxCount 0x4800 0x70) ∧
    7 = (0x70 : Byte).toNat / 16 % 8 ∧
    0 = (loaded .mux 1 0).regs.ch.div ∧
    15 = (loaded .mux 1 0).cfg.channelDivisor ∧
    (0 : Nat) < 15 ∧
    Accepts (onRegs .mux 1 0 fun r => { r with ch := ⟨2, 1, 14⟩ })
      ((loaded .mux 1 0).update fun r => { r with ch := ⟨2, 1, 14⟩ }) (.muxCount 0x4FFF 0xBF) ∧
    3 = (0xBF : Byte).toNat / 16 % 8 ∧
    14 = ((loaded .mux 1 0).update fun r => { r with ch := ⟨2, 1, 14⟩ }).regs.ch.div ∧
    (14 : Nat) < 15 :=
  ⟨⟨rfl, by decide⟩, by decide, rfl, rfl, by decide, ⟨rfl, by decide⟩, by decide, rfl, by decide⟩

/-- A mirroring write and a RESTORE on a four-screen board, a write on another, and a RESTORE there of a
four-screen blob. -/
theorem witness_FourScreenIsLocked :
    regOf Regs.mirr (exec (.scnMirr 0xA000 1) { State.reset with inst := some (loadInstance .scn (board .scn 1 0 .fourScreen)) })
      = some .fourScreen ∧
    regOf Regs.mirr (exec .restore (beside (loadInstance .cyc (board .cyc 1 0 .fourScreen))
      (blobOf (loaded .cyc 8 0)))) = some .fourScreen ∧
    (loadInstance .scn (board .scn 1 0 .fourScreen)).regs.mirr = .fourScreen ∧
    (loadInstance .cyc (board .cyc 1 0 .fourScreen)).regs.mirr = .fourScreen ∧
    regOf Regs.mirr (exec .restore (beside (loaded .cyc 1 0)
      (blobOf (loadInstance .cyc (board .cyc 1 0 .fourScreen))))) = some .fourScreen ∧
    (loaded .cyc 1 0).cfg.initMirr ≠ .fourScreen ∧
    regOf Regs.mirr (exec (.cycMirr 0xBFFF 0x0C) (on .cyc 1 0)) = some .singleHigh :=
  ⟨by decide, by decide, rfl, rfl, by decide, by decide, by decide⟩

theorem witness_QueriesReportModeAndPending :
    (on .fix 1 1).inst = some (loaded .fix 1 1) :=
  rfl

theorem witness_InitLeavesTheLoadValues :
    (initOn (board .cyc 1 0 .fourScreen)).inst = none ∧
    familyOf (board .cyc 1 0 .fourScreen).mapper = some .cyc ∧
    cfgOk (board .cyc 1 0 .fourScreen) = true :=
  ⟨rfl, rfl, by decide⟩

theorem witness_InitChecksInOrder :
    Mem.wf (1 * 16384) (board .fix 1 1 .vertical).prgRom.cells = true ∧
    Mem.wf (1 * 8192) (board .fix 1 1 .vertical).chrRom.cells = true ∧
    Mem.wf 8192 (board .fix 1 1 .vertical).prgRamInit = true ∧
    Mem.wf 8192 (board .fix 1 1 .vertical).chrRamInit = true :=
  ⟨by decide, by decide, by decide, by decide⟩

theorem witness_InitResolvesConflictPolicy :
    exec .init (initOn (board .dsc 8 0 .vertical))
      = .next ((initOn (board .dsc 8 0 .vertical)).answer (loaded .dsc 8 0) .accepted) ∧
    (loaded .dsc 8 0).family = .dsc ∧
    (loaded .ser 8 0).family ≠ .dsc :=
  ⟨rfl, rfl, by decide⟩

theorem witness_SaveCapturesAndUnloadDiscards :
    (on .ser 1 0).inst = some (loaded .ser 1 0) :=
  rfl

theorem witness_RestoreReplacesStateOrRefuses :
    (restoreOn (blobOf (loaded .ser 1 0))).inst = some (loaded .ser 1 0) ∧
    (blobOf (loaded .ser 1 0)).version = .current ∧
    (blobOf (loaded .ser 1 0)).family = (loaded .ser 1 0).family ∧
    (blobOf (loaded .ser 1 0)).hasPrgRam = (loaded .ser 1 0).cfg.hasPrgRam ∧
    (blobOf (loaded .ser 1 0)).hasChrRam = decide ((loaded .ser 1 0).cfg.chrBanks = 0) ∧
    RamInv (loaded .ser 1 0).cfg (blobOf (loaded .ser 1 0)).regs ∧
    { blobOf (loaded .ser 1 0) with version := .other 0 }.version ≠ .current :=
  ⟨rfl, rfl, rfl, rfl, rfl, ⟨by decide, by decide⟩, by decide⟩

/-- The invariant holds of a fresh board, so it is no empty premise. -/
theorem inv_loaded_1_0 : (loaded .ser 1 0).Inv where
  configured := ⟨rfl, rfl, by decide⟩
  regs :=
    { accClear := fun k _ => by simp [loaded, loadInstance, loadRegs]
      curLe := by decide
      divLt := by decide
      prescalerLe := by decide
      locked := by decide
      serMode := by decide
      fixedMode := by decide
      unused := ⟨by decide, by decide, by decide, by decide, by decide, by decide, by decide⟩
      quiet := by decide
      scnPending := by decide
      ram := ⟨by decide, by decide⟩ }

/-- It holds of one in the middle of a run too. -/
theorem inv_chr0_9 : ((loaded .ser 1 0).update fun r => { r with chr0 := 9 }).Inv where
  configured := ⟨rfl, rfl, by decide⟩
  regs :=
    { inv_loaded_1_0.regs with
      unused := ⟨by decide, by decide, by decide, by decide, by decide, by decide, by decide⟩
      ram := ⟨by decide, by decide⟩ }

/-- A RESTORE of the blob of another board, and a mirroring write. -/
theorem witness_OnlyMirroringWritesChangeMode :
    (loaded .ser 1 0).Inv ∧ (loaded .ser 1 0).regs.mirr = .vertical ∧
    regOf Regs.mirr (exec .restore (restoreOn
      (blobOf (loadInstance .ser (board .ser 1 0 .singleHigh))))) = some .singleHigh ∧
    regOf Regs.mirr (exec .restore (beside (loaded .cyc 1 0)
      (blobOf (loadInstance .cyc (board .cyc 1 0 .fourScreen))))) = some .fourScreen ∧
    regOf Regs.mirr (exec (.scnMirr 0xA000 1) (on .scn 1 0)) = some .horizontal ∧
    (loaded .scn 1 0).regs.mirr = .vertical :=
  ⟨inv_loaded_1_0, rfl, by decide, by decide, by decide, rfl⟩

theorem witness_SaveRestoreRoundTrip :
    (on .ser 1 0).inst = some (loaded .ser 1 0) ∧
    (loaded .ser 1 0).Inv ∧
    (onRegs .ser 1 0 fun r => { r with chr0 := 9 }).inst
      = some ((loaded .ser 1 0).update fun r => { r with chr0 := 9 }) ∧
    ((loaded .ser 1 0).update fun r => { r with chr0 := 9 }).Inv ∧
    ((loaded .ser 1 0).update fun r => { r with chr0 := 9 }).cfg = (loaded .ser 1 0).cfg :=
  ⟨rfl, inv_loaded_1_0, rfl, inv_chr0_9, rfl⟩

theorem witness_InvariantHoldsAfterLoad :
    exec .init (initOn (board .dsc 8 0 .vertical))
      = .next ((initOn (board .dsc 8 0 .vertical)).answer (loaded .dsc 8 0) .accepted) :=
  rfl

/-- A state that meets the premise of the invariant statement, and whose step answers next: it
restores the blob SAVE returns there. -/
theorem witness_StepKeepsInvariant :
    (presenting (restoreOn (blobOf (loaded .ser 1 0))) 0x0A000000).Inv ∧
    (∀ r rest, (presenting (restoreOn (blobOf (loaded .ser 1 0))) 0x0A000000).requests = r :: rest →
      r.operand.blob.Saved) ∧
    regOf id (step (presenting (restoreOn (blobOf (loaded .ser 1 0))) 0x0A000000))
      = some (loaded .ser 1 0).regs := by
  refine ⟨?_, ?_, by decide⟩
  · intro m h
    cases h
    exact inv_loaded_1_0
  · intro r rest h
    cases h
    exact ⟨_, inv_loaded_1_0, rfl⟩

theorem witness_StepKeepsMemoryCanonical :
    (presenting (on .ser 1 0) 0x016000FF).RamOk ∧
    regOf Regs.prgRam (step (presenting (on .ser 1 0) 0x016000FF)) = some [(0, 0xFF)] := by
  refine ⟨?_, by decide⟩
  intro m h
  cases h
  exact inv_loaded_1_0.regs.ram

theorem witness_ConfigurationIsFixedUntilUnload :
    (on .ser 1 0).inst = some (loaded .ser 1 0) ∧
    exec .qirq (on .ser 1 0) = .next { on .ser 1 0 with out := .irq false } ∧
    Instr.qirq ≠ .unload ∧ (on .ser 1 0).Configured := by
  refine ⟨rfl, rfl, by decide, ?_⟩
  intro m h
  cases h
  exact inv_loaded_1_0.configured

theorem witness_OtherFamiliesRegistersStay :
    (on .fix 1 1).inst = some (loaded .fix 1 1) ∧
    exec .clkNop (on .fix 1 1) = .next ((on .fix 1 1).answer (loaded .fix 1 1) .nothing) ∧
    regOf Regs.bank (exec .restore (restoreOn (blobOf ((loaded .ser 1 0).update busy)))) = some 0 ∧
    (loaded .ser 1 0).family ≠ .dsc :=
  ⟨rfl, rfl, by decide, by decide⟩

/-- Two settings of PM and CM, at the ends of the windows they move. -/
theorem witness_BankSelectModeBitsMoveWindows :
    Accepts (on .scn 8 8) (loaded .scn 8 8) (.scnBsel 0x8000 0x46) ∧
    Accepts (on .scn 1 0) (loaded .scn 1 0) (.scnBsel 0x9FFE 0x80) ∧
    (loaded .scn 8 8).Configured ∧ (loaded .scn 1 0).Configured ∧
    0x8000 ≤ (0x8000 : Addr).toNat ∧ 7 = (0x1FFF : Addr).toNat / 1024 :=
  ⟨⟨rfl, by decide⟩, ⟨rfl, by decide⟩, ⟨rfl, rfl, by decide⟩, ⟨rfl, rfl, by decide⟩, by decide,
    by decide⟩

end Sys2Proof.Tests
end

namespace Sys2Proof.Machine

/-! ### Scope: what a step is, and what stays while a cartridge is loaded -/

/-- R274: with nothing presented a step changes nothing. -/
theorem step_of_no_requests {s : State} (h : s.requests = []) : step s = .next s := by
  simp [step, h]

/-- R12, R94: a presented word that decodes is executed with its request taken. -/
theorem step_of_decode_ok {s : State} {r : Request} {rest : List Request} {i : Instr}
    (hr : s.requests = r :: rest) (hd : decode s.phase r.word = .ok i) :
    step s = exec i (s.takeRequest r rest) := by
  simp [step, hr, hd]

/-- R13, R260: a presented word that does not decode is refused for decode's reason. -/
theorem step_of_decode_error {s : State} {r : Request} {rest : List Request} {e : DecodeError}
    (hr : s.requests = r :: rest) (hd : decode s.phase r.word = .error e) :
    step s = .refused (refusalOf e) := by
  simp [step, hr, hd]

/-- Settles O5: the three branches of `step`, each by its equation. -/
theorem stepRunsDecodedOperation : Obligations.StepRunsDecodedOperation := by
  intro s
  refine ⟨fun r rest i hr hd => step_of_decode_ok hr hd, fun r rest e hr hd => ?_,
    step_of_no_requests⟩
  rw [step_of_decode_error hr hd]
  cases e <;> rfl

/-! ### Translated offsets -/

/-- R121 for a whole table: when every window size divides the unit `n` of which the space has
`banks > 0`, an offset the table gives lies inside the space. -/
theorem lookup_lt {t : List Window} {n banks a off : Nat} (hn : 0 < n) (hb : 0 < banks)
    (hd : ∀ p ∈ frameOf t, p.2 ∣ n) (h : lookup (banks * n) t a = some off) :
    off < banks * n := by
  obtain ⟨w, hw, -, rfl⟩ := lookup_eq_some h
  have hwn : w.wsize ∣ n := hd (w.base, w.wsize) (List.mem_map_of_mem hw)
  have hws : w.wsize ∣ banks * n := hwn.mul_left banks
  exact translate_lt (Nat.pos_of_dvd_of_pos hwn hn)
    (Nat.le_of_dvd (Nat.mul_pos hb hn) hws) (Nat.mod_eq_zero_of_dvd hws)

/-- R42: every program window size divides the 16 KiB bank. -/
theorem prgFrame_wsize_dvd (f : Family) : ∀ p ∈ prgFrame f, p.2 ∣ 16384 := by
  cases f <;> decide

/-- R42: every graphics window size divides the 8 KiB bank. -/
theorem chrFrame_wsize_dvd (f : Family) : ∀ p ∈ chrFrame f, p.2 ∣ 8192 := by
  cases f <;> decide

/-- R121: a program offset lies inside a program ROM of at least one bank. -/
theorem prgOffset_lt {m : Instance} {a : Addr} {off : Nat} (hb : 1 ≤ m.cfg.prgBanks)
    (h : prgOffset m a = some off) : off < m.cfg.prgBanks * 16384 := by
  refine lookup_lt (by decide) hb ?_ h
  rw [frame_prgTable]
  exact prgFrame_wsize_dvd m.family

/-- R120: graphics RAM counts as one bank of 8 KiB. -/
theorem chrSize_eq_mul (c : Cfg) :
    chrSize c = (if c.chrBanks = 0 then 1 else c.chrBanks) * 8192 := by
  by_cases h : c.chrBanks = 0 <;> simp [chrSize, hasChrRam, ramSize, h]

/-- R121: a graphics offset lies inside the graphics RAM or ROM of the board. -/
theorem chrOffset_lt {m : Instance} {a : Addr} {off : Nat} (h : chrOffset m a = some off) :
    off < chrSize m.cfg := by
  unfold chrOffset at h
  rw [chrSize_eq_mul] at h ⊢
  have hb : 0 < if m.cfg.chrBanks = 0 then 1 else m.cfg.chrBanks := by split <;> omega
  refine lookup_lt (by decide) hb ?_ h
  rw [frame_chrTable]
  exact chrFrame_wsize_dvd m.family

/-- Settles O9: the selector is taken modulo the number of banks, and every window size divides the
bank it is cut from. -/
theorem offsetsStayInsideTheSpace : Obligations.OffsetsStayInsideTheSpace := by
  intro m a off hb
  refine ⟨prgOffset_lt hb, fun h => ?_⟩
  simpa [chrSize_eq_mul, ite_mul] using chrOffset_lt h

/-! ### The configuration while loaded -/

/-- `Configured` speaks of the configuration, family and policy only. -/
theorem Instance.Configured.update {m : Instance} (h : m.Configured) (f : Regs → Regs) :
    (m.update f).Configured :=
  ⟨h.family, h.conflict, h.checked⟩

/-- R39, R240: what INIT constructs is configured. -/
theorem loadInstance_configured {f : Family} {c : Cfg} (hf : familyOf c.mapper = some f)
    (hc : cfgOk c = true) : (loadInstance f c).Configured :=
  ⟨hf, rfl, hc⟩

theorem State.Configured.answer {s : State} {m : Instance} (h : m.Configured) (o : Output) :
    (s.answer m o).Configured := by
  intro u hu
  cases hu
  exact h

/-- Nothing is asked of the unloaded phase. -/
theorem State.Configured.unloaded {s : State} (h : s.inst = none) : s.Configured := by
  intro m hm
  simp [h] at hm

/-- INIT constructs a configured cartridge, UNLOAD discards it, and every other operation changes its
registers only. -/
theorem exec_keeps_configured {i : Instr} {s t : State} (hs : s.Configured)
    (he : exec i s = .next t) : t.Configured := by
  cases hi : s.inst with
  | none =>
    obtain rfl := exec_completed_unloaded hi he
    obtain ⟨f, -, hf, hc, rfl⟩ := exec_init he
    exact .answer (loadInstance_configured hf hc) _
  | some m =>
    by_cases hu : i = .unload
    · subst hu
      obtain ⟨-, -, rfl⟩ := exec_unload he
      exact .unloaded rfl
    · obtain ⟨r, o, rfl⟩ := exec_loaded hi he hu
      exact .answer ((hs m hi).update _) _

/-- A step executes one operation or none, so it keeps what every operation keeps. -/
theorem step_keeps_configured {s t : State} (hs : s.Configured) (h : step s = .next t) :
    t.Configured := by
  rcases step_cases h with ⟨-, rfl⟩ | ⟨r, rest, i, -, -, he⟩
  · exact hs
  · exact exec_keeps_configured (s := s.takeRequest r rest) hs he

/-- Settles O58: a completed operation other than UNLOAD changes registers and output only, and
`Configured` is kept by every step. -/
theorem configurationIsFixedUntilUnload : Obligations.ConfigurationIsFixedUntilUnload := by
  refine ⟨fun s t m i hm he hu => ?_, fun s t => step_keeps_configured⟩
  obtain ⟨r, o, rfl⟩ := exec_loaded hm he hu
  exact ⟨m.update fun _ => r, rfl, rfl, rfl, rfl⟩

end Sys2Proof.Machine

namespace Sys2Proof.Machine

/-! ### The unloaded phase -/

/-- Settles O7: every meaning but INIT's asks for a loaded cartridge. -/
theorem unloadedBlockRefusesAllButInit : Obligations.UnloadedBlockRefusesAllButInit := by
  intro s i hs hi
  cases i
  case init => exact absurd rfl hi
  case restore => simp [exec, execRestore, hs]
  case unload => simp [exec, execUnload, hs]
  all_goals exact perform_unloaded hs _

/-- Settles O6: all three invariants speak of the loaded cartridge, and reset has none. -/
theorem resetIsUnloadedWithInvariant : Obligations.ResetIsUnloadedWithInvariant := by
  refine ⟨rfl, rfl, ?_, .unloaded rfl, ?_⟩ <;>
  · intro m hm
    cases hm

/-! ### Windows tile their region -/

/-- The windows of a frame follow one another without gap or overlap from `lo` up to `hi`. -/
def tiles (lo hi : Nat) : List (Nat × Nat) → Bool
  | [] => lo == hi
  | (base, wsize) :: t => base == lo && tiles (lo + wsize) hi t

theorem tiles_le {lo hi : Nat} {t : List (Nat × Nat)} (h : tiles lo hi t = true) : lo ≤ hi := by
  induction t generalizing lo with
  | nil => simp_all [tiles]
  | cons p t ih =>
    have := ih (lo := lo + p.2) (by simp_all [tiles])
    omega

/-- A table that tiles `lo` to `hi` covers each address of it by one window and no other address. -/
theorem count_covers_of_tiles {lo hi : Nat} {t : List Window} (h : tiles lo hi (frameOf t) = true)
    (a : Nat) : (t.filter fun w => w.covers a).length = if lo ≤ a ∧ a < hi then 1 else 0 := by
  induction t generalizing lo with
  | nil =>
    have : lo = hi := by simpa [frameOf, tiles] using h
    rw [if_neg (by omega)]
    rfl
  | cons w t ih =>
    obtain ⟨hb, ht⟩ : w.base = lo ∧ tiles (lo + w.wsize) hi (frameOf t) = true := by
      simpa [frameOf, tiles] using h
    have hle := tiles_le ht
    have hw := Window.covers_iff w a
    rw [hb] at hw
    by_cases hc : w.covers a = true
    · rw [List.filter_cons, if_pos hc, List.length_cons, ih ht]
      have := hw.1 hc
      rw [if_neg (by omega), if_pos (by omega)]
    · rw [List.filter_cons, if_neg hc, ih ht]
      have := mt hw.2 hc
      congr 1
      apply propext
      omega

/-- R42: program windows tile 0x8000 to 0xFFFF in every family. -/
theorem prgFrame_tiles (f : Family) : tiles 0x8000 0x10000 (prgFrame f) = true := by
  cases f <;> decide

/-- R42: graphics windows tile 0x0000 to 0x1FFF in every family. -/
theorem chrFrame_tiles (f : Family) : tiles 0 0x2000 (chrFrame f) = true := by
  cases f <;> decide

/-- Settles O8: the frame of a table depends on the family alone and tiles its region. -/
theorem windowsCoverEveryAddressOnce : Obligations.WindowsCoverEveryAddressOnce := by
  refine ⟨fun m a hlo hhi => ?_, fun m a ha => ?_, fun m m' hf => ⟨?_, ?_⟩⟩
  · rw [count_covers_of_tiles (frame_prgTable m ▸ prgFrame_tiles m.family), if_pos (by omega)]
  · rw [count_covers_of_tiles (frame_chrTable m ▸ chrFrame_tiles m.family), if_pos (by omega)]
  · exact (frame_prgTable m).trans (hf ▸ (frame_prgTable m').symm)
  · exact (frame_chrTable m).trans (hf ▸ (frame_chrTable m').symm)

/-! ### What a completed operation does to the registers -/

/-- The one family an operation belongs to, for the operations whose row of R92 names one. -/
def ownerOf : Instr → Option Family
  | .dscBank .. => some .dsc
  | .serReset .. | .serSh0 .. | .serSh1 .. | .serSh2 .. | .serSh3 .. => some .ser
  | .scnBsel .. | .scnBdat .. | .scnMirr .. | .scnNop .. | .scnLatch .. | .scnReload ..
  | .scnDisable .. | .scnEnable .. | .scanScn => some .scn
  | .cycPrg16 .. | .cycMirr .. | .cycPrg8 .. | .cycChrlo .. | .cycChrhi .. | .cycLatch ..
  | .cycCtrl .. | .cycAck .. | .clkCyc => some .cyc
  | .muxCount .. | .muxChr .. | .muxPrg0 .. | .muxPrg1 .. | .muxPrg2 .. | .clkMux => some .mux
  | _ => none

theorem family_of_owner {i : Instr} {f g : Family} (h : i.inFamily f = true)
    (ho : ownerOf i = some g) : f = g := by
  cases i <;> cases ho <;>
    · simp only [Instr.inFamily, Bool.and_eq_true, beq_iff_eq] at h
      simp only [h]

/-- What the operations of SCN do to the scanline counter (R170 to R174). -/
inductive ScanlineStep (q : Irq) : Instr → Irq → Prop
  | strobe : ScanlineStep q .scanScn q.strobe
  | latch {a d} (v : Byte) : ScanlineStep q (.scnLatch a d) (q.setLatch v)
  | reload {a d} : ScanlineStep q (.scnReload a d) q.requestReload
  | disable {a d} : ScanlineStep q (.scnDisable a d) q.disable
  | enable {a d} : ScanlineStep q (.scnEnable a d) q.enable

/-- What the operations of CYC do to the cycle counter (R190 to R194); `reload` is
`PRESCALER_RELOAD`. -/
inductive CycleStep (reload : Nat) (q : Irq) : Instr → Irq → Prop
  | tick : CycleStep reload q .clkCyc (q.tick reload)
  | latch {a d} (v : Byte) : CycleStep reload q (.cycLatch a d) (q.setLatch v)
  | control {a d} (v : Byte) : CycleStep reload q (.cycCtrl a d) (q.control reload v)
  | acknowledge {a d} : CycleStep reload q (.cycAck a d) q.acknowledge

/-- Everything a completed operation on the loaded cartridge `m` can make of its registers, INIT,
RESTORE and UNLOAD apart. Operations that move banks only, or nothing, are not told apart. -/
inductive RegsChange (m : Instance) : Instr → Regs → Prop
  /-- operations that reach no register, or ignore the write -/
  | same {i} : RegsChange m i m.regs
  /-- RAM.WR (R127) -/
  | prgRam {a d} (hp : m.cfg.hasPrgRam = true) (ho : ramOffset a < ramSize) :
      RegsChange m (.ramWr a d) { m.regs with prgRam := m.regs.prgRam.write (ramOffset a) d }
  /-- CHR.WR (R131) -/
  | chrRam {a d off} (hc : hasChrRam m.cfg = true) (ho : chrOffset m a = some off) :
      RegsChange m (.chrWr a d) { m.regs with chrRam := m.regs.chrRam.write off d }
  /-- DSC.BANK (R144) -/
  | dscBank {i bank} (hf : m.family = .dsc) : RegsChange m i { m.regs with bank := bank }
  /-- SER.RESET (R151) -/
  | serReset {a d} (hf : m.family = .ser) :
      RegsChange m (.serReset a d) { m.regs with sr := ⟨0, 0⟩, ctrl := m.regs.ctrl ||| 0x0C }
  /-- R152: one of the first four shift writes -/
  | serCollect {q a d} (hf : m.family = .ser) (hc : m.regs.sr.cnt.val < 4) :
      RegsChange m (shiftWrite q a d)
        { m.regs with
          sr := ⟨m.regs.sr.accept (resolve m a d),
            ⟨m.regs.sr.cnt.val + 1, Nat.succ_lt_succ hc⟩⟩ }
  /-- R154: a fifth shift write, in quarter 0 -/
  | serLoadCtrl {a d ctrl} (hf : m.family = .ser) (hc : m.regs.sr.cnt.val = 4) :
      RegsChange m (.serSh0 a d)
        { setMirr m (serMirr ctrl) { m.regs with ctrl := ctrl } with sr := ⟨0, 0⟩ }
  /-- R155 to R157: a fifth shift write, in another quarter -/
  | serLoadBank {q a d chr0 chr1 prg} (hf : m.family = .ser) (hc : m.regs.sr.cnt.val = 4) :
      RegsChange m (shiftWrite q a d)
        { m.regs with chr0 := chr0, chr1 := chr1, prg := prg, sr := ⟨0, 0⟩ }
  /-- SCN.BSEL and SCN.BDAT (R177, R178) -/
  | scnBanks {i bsel br} (hf : m.family = .scn) :
      RegsChange m i { m.regs with bsel := bsel, br := br }
  /-- SCN.MIRR (R179) -/
  | scnMirr {a d} (hf : m.family = .scn) :
      RegsChange m (.scnMirr a d) (setMirr m (scnMirrMode (resolve m a d)) m.regs)
  /-- R170 to R174 -/
  | scnIrq {i q} (hf : m.family = .scn) (hq : ScanlineStep m.regs.irq i q) :
      RegsChange m i { m.regs with irq := q }
  /-- R198 to R200, R203 -/
  | cycBanks {i p16 p8 cr} (hf : m.family = .cyc) :
      RegsChange m i { m.regs with p16 := p16, p8 := p8, cr := cr }
  /-- CYC.MIRR (R202) -/
  | cycMirr {a d} (hf : m.family = .cyc) :
      RegsChange m (.cycMirr a d) (setMirr m (cycMirrMode (resolve m a d)) m.regs)
  /-- R190 to R194 -/
  | cycIrq {i q} (hf : m.family = .cyc) (hq : CycleStep m.cfg.prescalerReload m.regs.irq i q) :
      RegsChange m i { m.regs with irq := q }
  /-- R214 to R217 -/
  | muxBanks {i cr mp} (hf : m.family = .mux) : RegsChange m i { m.regs with cr := cr, mp := mp }
  /-- MUX.COUNT (R210) -/
  | muxCount {a d n} (hf : m.family = .mux) :
      RegsChange m (.muxCount a d) { m.regs with ch := m.regs.ch.setCount n }
  /-- CLK.MUX (R211) -/
  | muxTick (hf : m.family = .mux) :
      RegsChange m .clkMux { m.regs with ch := m.regs.ch.tick m.cfg.channelDivisor }

/-- `u` is `m` after a register change of `i`. -/
def Changed (m : Instance) (i : Instr) (u : Instance) : Prop :=
  ∃ r, RegsChange m i r ∧ u = m.update fun _ => r

section
variable {i : Instr} {s t : State} {m u : Instance}

theorem Changed.of_perform {k : Instance → Instance × Output} (hm : s.inst = some m)
    (he : perform i s k = .next t) (hu : t.inst = some u)
    (hk : i.inFamily m.family = true → Changed m i (k m).1) : Changed m i u := by
  obtain ⟨m', hm', hf, rfl⟩ := perform_cases he
  cases hm'.symm.trans hm
  cases hu
  exact hk hf

theorem Changed.of_query {f : Instance → Output} (hm : s.inst = some m)
    (he : query i s f = .next t) (hu : t.inst = some u) : Changed m i u :=
  .of_perform hm he hu fun _ => ⟨_, .same, rfl⟩

theorem Changed.of_command {f : Instance → Regs → Regs} (hm : s.inst = some m)
    (he : command i s f = .next t) (hu : t.inst = some u)
    (hk : i.inFamily m.family = true → RegsChange m i (f m m.regs)) : Changed m i u :=
  .of_perform hm he hu fun hf => ⟨_, hk hf, rfl⟩

end

/-- A shift write in another quarter than 0 collects a bit or loads a bank register. -/
theorem RegsChange.of_shift {m : Instance} {q : Fin 4} {a : Addr} {d : Byte}
    {load : BitVec 5 → Regs → Regs} (hf : m.family = .ser)
    (hl : m.regs.sr.cnt.val = 4 → RegsChange m (shiftWrite q a d)
      { load (m.regs.sr.accept (resolve m a d)) m.regs with sr := ⟨0, 0⟩ }) :
    RegsChange m (shiftWrite q a d) (serShift (resolve m a d) load m.regs) := by
  by_cases hc : m.regs.sr.cnt.val = 4
  · rw [serShift_loads hc]
    exact hl hc
  · have hlt : m.regs.sr.cnt.val < 4 := by omega
    rw [serShift_collects hlt]
    exact .serCollect hf hlt

theorem RegsChange.of_ramWr {m : Instance} {a : Addr} {d : Byte}
    (h : (Instr.ramWr a d).inFamily m.family = true) :
    RegsChange m (.ramWr a d)
      (if ramAnswers m then { m.regs with prgRam := m.regs.prgRam.write (ramOffset a) d }
        else m.regs) := by
  split
  case isTrue hr =>
    have hp : m.cfg.hasPrgRam = true := by simp_all [ramAnswers]
    have ha : a.toNat ≤ 0x7FFF := by simp_all [Instr.inFamily, Addr.within]
    exact .prgRam hp (by unfold ramOffset ramSize; omega)
  case isFalse => exact .same

/-- A completed operation that leaves a cartridge loaded, RESTORE apart, made one of these changes. -/
theorem exec_changed {i : Instr} {s t : State} {m u : Instance} (hm : s.inst = some m)
    (he : exec i s = .next t) (hu : t.inst = some u) (hi : i ≠ .restore) : Changed m i u := by
  have own {g} (h : i.inFamily m.family = true) := family_of_owner (g := g) h
  cases i
  case init => simp [exec, execInit, hm] at he
  case restore => exact absurd rfl hi
  case unload =>
    obtain ⟨-, -, rfl⟩ := exec_unload he
    cases hu
  case prgRd | ramRd | expRd | chrRd | ntRd | qmir | qirq | save => exact .of_query hm he hu
  case expWr | romNop | ntWr | clkNop | scnNop | scanNop =>
    exact .of_command hm he hu fun _ => .same
  case ramWr => exact .of_command hm he hu .of_ramWr
  case chrWr a d =>
    refine .of_command hm he hu fun _ => ?_
    split
    case h_1 off ho =>
      split
      case isTrue hc => exact .chrRam hc ho
      case isFalse => exact .same
    case h_2 => exact .same
  case dscBank => exact .of_command hm he hu fun hf => .dscBank (own hf rfl)
  case serReset => exact .of_command hm he hu fun hf => .serReset (own hf rfl)
  case serSh0 =>
    exact .of_command hm he hu fun hf => .of_shift (q := 0) (own hf rfl) (.serLoadCtrl (own hf rfl))
  case serSh1 =>
    exact .of_command hm he hu fun hf => .of_shift (q := 1) (own hf rfl) (.serLoadBank (own hf rfl))
  case serSh2 =>
    exact .of_command hm he hu fun hf => .of_shift (q := 2) (own hf rfl) (.serLoadBank (own hf rfl))
  case serSh3 =>
    exact .of_command hm he hu fun hf => .of_shift (q := 3) (own hf rfl) (.serLoadBank (own hf rfl))
  case scnBsel | scnBdat => exact .of_command hm he hu fun hf => .scnBanks (own hf rfl)
  case scnMirr => exact .of_command hm he hu fun hf => .scnMirr (own hf rfl)
  case scnLatch => exact .of_command hm he hu fun hf => .scnIrq (own hf rfl) (.latch _)
  case scnReload => exact .of_command hm he hu fun hf => .scnIrq (own hf rfl) .reload
  case scnDisable => exact .of_command hm he hu fun hf => .scnIrq (own hf rfl) .disable
  case scnEnable => exact .of_command hm he hu fun hf => .scnIrq (own hf rfl) .enable
  case scanScn => exact .of_command hm he hu fun hf => .scnIrq (own hf rfl) .strobe
  case cycPrg16 | cycPrg8 | cycChrlo | cycChrhi =>
    exact .of_command hm he hu fun hf => .cycBanks (own hf rfl)
  case cycMirr => exact .of_command hm he hu fun hf => .cycMirr (own hf rfl)
  case cycLatch => exact .of_command hm he hu fun hf => .cycIrq (own hf rfl) (.latch _)
  case cycCtrl => exact .of_command hm he hu fun hf => .cycIrq (own hf rfl) (.control _)
  case cycAck => exact .of_command hm he hu fun hf => .cycIrq (own hf rfl) .acknowledge
  case clkCyc => exact .of_command hm he hu fun hf => .cycIrq (own hf rfl) .tick
  case muxChr | muxPrg0 | muxPrg1 | muxPrg2 =>
    exact .of_command hm he hu fun hf => .muxBanks (own hf rfl)
  case muxCount => exact .of_command hm he hu fun hf => .muxCount (own hf rfl)
  case clkMux => exact .of_perform hm he hu fun hf => ⟨_, .muxTick (own hf rfl), rfl⟩

/-- A completed operation that leaves the cartridge loaded is a RESTORE of a fitting blob, or made one
of the register changes. -/
theorem exec_loaded_cases {i : Instr} {s t : State} {m u : Instance} (hm : s.inst = some m)
    (he : exec i s = .next t) (hu : t.inst = some u) :
    (i = .restore ∧ blobFits m s.operand.blob = true ∧
        u = m.update (restoreRegs m s.operand.blob.regs)) ∨ Changed m i u := by
  by_cases hi : i = .restore
  · subst hi
    obtain ⟨m', hm', hb, rfl⟩ := exec_restore he
    cases hm'.symm.trans hm
    cases hu
    exact .inl ⟨rfl, hb, rfl⟩
  · exact .inr (exec_changed hm he hu hi)

/-! ### The elements a family does not use -/

theorem setMirr_sameUnused (m : Instance) (v : Mirr) (r : Regs) (f : Family) :
    SameUnused f (setMirr m v r) r := by
  constructor <;> simp

/-- The scanline counter leaves the elements of `IRQ` alone that only CYC uses (R35). -/
theorem ScanlineStep.frame {q q' : Irq} {i : Instr} (h : ScanlineStep q i q') :
    q'.rearm = q.rearm ∧ q'.mode = q.mode ∧ q'.prescaler = q.prescaler := by
  cases h
  case strobe => simp
  all_goals exact ⟨rfl, rfl, rfl⟩

/-- The control write is no reload request (R193). -/
@[simp] theorem Irq.control_reload (reload : Nat) (q : Irq) (v : Byte) :
    (q.control reload v).reload = q.reload := by
  unfold Irq.control
  dsimp only
  split <;> rfl

@[simp] theorem Irq.control_pending (reload : Nat) (q : Irq) (v : Byte) :
    (q.control reload v).pending = q.pending := by
  unfold Irq.control
  dsimp only
  split <;> rfl

/-- The cycle counter leaves the reload request of SCN alone (R35). -/
theorem CycleStep.reload_eq {reload : Nat} {q q' : Irq} {i : Instr}
    (h : CycleStep reload q i q') : q'.reload = q.reload := by
  cases h
  case tick => simp
  case control => simp
  all_goals rfl

/-- R23, R35: a change touches elements of the loaded family and those every family has. -/
theorem RegsChange.sameUnused {m : Instance} {i : Instr} {r : Regs} (h : RegsChange m i r) :
    SameUnused m.family r m.regs := by
  cases h
  case same => exact .refl ..
  case scnMirr => exact setMirr_sameUnused ..
  case cycMirr => exact setMirr_sameUnused ..
  case scnIrq hf hq =>
    obtain ⟨hr, hm, hp⟩ := hq.frame
    constructor <;> simp [hf, hr, hm, hp]
  case cycIrq hf hq => constructor <;> simp [hf, hq.reload_eq]
  case prgRam | chrRam => constructor <;> simp
  all_goals
    have hf := ‹m.family = _›
    constructor <;> simp [hf]

/-- Settles O59: RESTORE takes only what the loaded family uses, and so does every register change. -/
theorem otherFamiliesRegistersStay : Obligations.OtherFamiliesRegistersStay := by
  intro s t m u i hm he hu
  rcases exec_loaded_cases hm he hu with ⟨-, -, rfl⟩ | ⟨r, hr, rfl⟩
  · exact restoreRegs_sameUnused ..
  · exact hr.sameUnused

/-! ### When pending rises -/

/-- R170: pending is set by a strobe that leaves the counter at zero while enabled, and by no write. -/
theorem ScanlineStep.raises {q q' : Irq} {i : Instr} (h : ScanlineStep q i q')
    (hq : q.pending = false) (hq' : q'.pending = true) :
    q.enabled = true ∧ i = .scanScn ∧ q'.counter = 0 := by
  cases h
  case strobe =>
    rw [Irq.strobe_pending, hq] at hq'
    simp_all
  case disable => cases hq'
  all_goals exact absurd (hq.symm.trans hq') (by decide)

/-- R191: pending is set by a tick that overflows while armed, and by no write. -/
theorem CycleStep.raises {reload : Nat} {q q' : Irq} {i : Instr} (h : CycleStep reload q i q')
    (hq : q.pending = false) (hq' : q'.pending = true) :
    q.enabled = true ∧ i = .clkCyc ∧ q.counter = 0xFF := by
  cases h
  case tick =>
    rw [Irq.tick_pending, hq] at hq'
    simp_all
  case control => simp_all
  case acknowledge => cases hq'
  case latch => exact absurd (hq.symm.trans hq') (by decide)

/-- R262: a change that sets pending is a strobe or a tick that counts to its end while enabled. -/
theorem RegsChange.raises {m : Instance} {i : Instr} {r : Regs} (h : RegsChange m i r)
    (hq : m.regs.irq.pending = false) (hr : r.irq.pending = true) :
    m.regs.irq.enabled = true ∧
      ((i = .scanScn ∧ m.family = .scn ∧ r.irq.counter = 0) ∨
        (i = .clkCyc ∧ m.family = .cyc ∧ m.regs.irq.counter = 0xFF)) := by
  cases h
  case scnIrq hf hs =>
    obtain ⟨he, hi, hc⟩ := hs.raises hq hr
    exact ⟨he, .inl ⟨hi, hf, hc⟩⟩
  case cycIrq hf hs =>
    obtain ⟨he, hi, hc⟩ := hs.raises hq hr
    exact ⟨he, .inr ⟨hi, hf, hc⟩⟩
  all_goals simp [hq] at hr

/-- R244: RESTORE sets a clear pending only in a family with a counter, from a blob that has it. -/
theorem restoreRegs_raises {m : Instance} {b r : Regs} (hq : r.irq.pending = false)
    (hr : (restoreRegs m b r).irq.pending = true) :
    (m.family = .scn ∨ m.family = .cyc) ∧ b.irq.pending = true := by
  rw [restoreRegs_irq] at hr
  cases hf : m.family <;> simp_all [Irq.restore]

/-- Settles O35: by RESTORE from the blob, else by a register change, which says when. -/
theorem pendingIsRaisedOnlyWhenEnabled : Obligations.PendingIsRaisedOnlyWhenEnabled := by
  intro s t m u i hm hq he hu hr
  rcases exec_loaded_cases hm he hu with ⟨hi, -, rfl⟩ | ⟨r, hc, rfl⟩
  · obtain ⟨hf, hb⟩ := restoreRegs_raises hq hr
    exact ⟨hf, .inl ⟨hi, hb⟩⟩
  · have h := hc.raises hq hr
    refine ⟨?_, .inr h⟩
    rcases h with ⟨-, ⟨-, hf, -⟩ | ⟨-, hf, -⟩⟩
    · exact .inl hf
    · exact .inr hf

/-! ### Memory in canonical form -/

/-- Every check of INIT by name (R240). -/
theorem cfgOk_iff (c : Cfg) : cfgOk c = true ↔
    1 ≤ c.prgBanks ∧ c.prgRom.hasSize (c.prgBanks * 16384) = true ∧
      c.chrRom.hasSize (c.chrBanks * 8192) = true ∧ Mem.wf ramSize c.prgRamInit = true ∧
      Mem.wf ramSize c.chrRamInit = true ∧ 1 ≤ c.prescalerReload ∧ 1 ≤ c.channelDivisor := by
  simp [cfgOk, and_assoc]

/-- A write inside a region the board has keeps the region's shape. -/
theorem ramShape_write {present : Bool} {r : Mem} {off : Nat} {v : Byte} (hp : present = true)
    (ho : off < ramSize) (h : ramShape present r = true) :
    ramShape present (r.write off v) = true := by
  subst hp
  exact Mem.write_wf ho h

/-- R43: a region after load has its shape. -/
theorem ramShape_load {present : Bool} {r : Mem} (h : Mem.wf ramSize r = true) :
    ramShape present (if present then r else []) = true := by
  cases present
  · rfl
  · exact h

theorem loadRegs_ramInv {c : Cfg} (h : cfgOk c = true) : RamInv c (loadRegs c) := by
  obtain ⟨-, -, -, hp, hc, -, -⟩ := (cfgOk_iff c).1 h
  exact ⟨ramShape_load hp, ramShape_load hc⟩

/-- The invariant of memory speaks of the two regions only. -/
theorem RamInv.congr {c : Cfg} {r r' : Regs} (h : RamInv c r) (hp : r'.prgRam = r.prgRam)
    (hc : r'.chrRam = r.chrRam) : RamInv c r' :=
  ⟨hp ▸ h.prgRam, hc ▸ h.chrRam⟩

theorem RegsChange.ramInv {m : Instance} {i : Instr} {r : Regs} (hc : RegsChange m i r)
    (h : RamInv m.cfg m.regs) : RamInv m.cfg r := by
  cases hc
  case prgRam hp ho => exact ⟨ramShape_write hp ho h.prgRam, h.chrRam⟩
  case chrRam hc ho =>
    have hlt := chrOffset_lt ho
    rw [chrSize, if_pos hc] at hlt
    exact ⟨h.prgRam, ramShape_write hc hlt h.chrRam⟩
  all_goals exact h.congr (by simp) (by simp)

/-- What INIT establishes, and RESTORE and every register change keep, is kept by every completed
operation. -/
theorem exec_keeps {P : Instance → Prop} {i : Instr} {s t : State}
    (hs : ∀ m, s.inst = some m → P m) (he : exec i s = .next t)
    (hinit : ∀ f c, familyOf c.mapper = some f → cfgOk c = true → P (loadInstance f c))
    (hrestore : ∀ m, i = .restore → P m → blobFits m s.operand.blob = true →
      P (m.update (restoreRegs m s.operand.blob.regs)))
    (hchange : ∀ m r, P m → RegsChange m i r → P (m.update fun _ => r)) :
    ∀ u, t.inst = some u → P u := by
  intro u hu
  cases hm : s.inst with
  | none =>
    obtain rfl := exec_completed_unloaded hm he
    obtain ⟨f, -, hf, hc, rfl⟩ := exec_init he
    cases hu
    exact hinit f _ hf hc
  | some m =>
    rcases exec_loaded_cases hm he hu with ⟨hi, hb, rfl⟩ | ⟨r, hr, rfl⟩
    · exact hrestore m hi (hs m hm) hb
    · exact hchange m r (hs m hm) hr

theorem exec_keeps_ramOk {i : Instr} {s t : State} (hs : s.RamOk) (he : exec i s = .next t) :
    t.RamOk := by
  refine exec_keeps (P := fun m => RamInv m.cfg m.regs) hs he ?init ?restore ?change
  case init => exact fun f c _ hc => loadRegs_ramInv hc
  case restore =>
    intro m _ _ hb
    obtain ⟨-, -, -, -, hr⟩ := (blobFits_iff ..).1 hb
    exact hr.congr (by simp) (by simp)
  case change => exact fun m r hm hr => hr.ramInv hm

/-- Settles O57: INIT and RESTORE take no other listing, and both writes keep the form. -/
theorem stepKeepsMemoryCanonical : Obligations.StepKeepsMemoryCanonical := by
  intro s t hs h
  rcases step_cases h with ⟨-, rfl⟩ | ⟨r, rest, i, -, -, he⟩
  · exact hs
  · exact exec_keeps_ramOk (s := s.takeRequest r rest) hs he

/-! ### The invariant after load -/

/-- R154 read back: the code of a mode that has one names that mode. -/
theorem serMirr_menc {v : Mirr} (h : v ≠ .fourScreen) : serMirr (0x0C ||| menc v) = v := by
  cases v
  case fourScreen => exact absurd rfl h
  all_goals decide

/-- R43: the registers INIT writes meet the invariant in every family. -/
theorem loadRegs_inv {c : Cfg} (h : cfgOk c = true) (f : Family) : RegsInv c f (loadRegs c) := by
  obtain ⟨-, -, -, -, -, -, hdiv⟩ := (cfgOk_iff c).1 h
  exact {
    accClear := by simp [loadRegs]
    curLe := le_refl _
    divLt := hdiv
    prescalerLe := le_refl _
    locked := id
    serMode := fun _ h4 => (serMirr_menc h4).symm
    fixedMode := fun _ => rfl
    unused := .refl f _
    quiet := fun _ _ => rfl
    scnPending := fun _ hp => by cases hp
    ram := loadRegs_ramInv h }

theorem loadInstance_inv {f : Family} {c : Cfg} (hf : familyOf c.mapper = some f)
    (hc : cfgOk c = true) : (loadInstance f c).Inv :=
  ⟨loadInstance_configured hf hc, loadRegs_inv hc f⟩

/-- Settles O55: a completed INIT has passed its checks. -/
theorem invariantHoldsAfterLoad : Obligations.InvariantHoldsAfterLoad := by
  intro s t he
  obtain ⟨f, -, hf, hc, rfl⟩ := exec_init he
  exact ⟨_, rfl, loadInstance_inv hf hc⟩

/-! ### The invariant along register changes -/

/-- R41 (a) after a shift write: the bit goes in at the count, which rises by one. -/
theorem Shift.accept_clear {q : Shift} (h : ∀ k, q.cnt.val ≤ k → q.acc.getLsbD k = false) (d : Byte)
    {k : Nat} (hk : q.cnt.val + 1 ≤ k) : (q.accept d).getLsbD k = false := by
  have hbit : (serialBit d).getLsbD (k - q.cnt.val) = false := by
    simp [serialBit]; omega
  simp [Shift.accept, h k (by omega), hbit]

/-- R41 (a): only SER moves the accumulator. -/
theorem RegsChange.accClear {m : Instance} {i : Instr} {r : Regs} (hc : RegsChange m i r)
    (h : ∀ k, m.regs.sr.cnt.val ≤ k → m.regs.sr.acc.getLsbD k = false) (k : Nat)
    (hk : r.sr.cnt.val ≤ k) : r.sr.acc.getLsbD k = false := by
  cases hc
  case serCollect => exact Shift.accept_clear h _ hk
  case serReset | serLoadCtrl | serLoadBank => simp
  case scnMirr | cycMirr => simp_all
  all_goals exact h k hk

/-- R41 (b) and (c): the scheduler moves by the count write and by the tick. -/
theorem RegsChange.sched {m : Instance} {i : Instr} {r : Regs} (hc : RegsChange m i r)
    (hcur : m.regs.ch.cur.toNat ≤ m.regs.ch.count.toNat)
    (hdiv : m.regs.ch.div < m.cfg.channelDivisor) :
    r.ch.cur.toNat ≤ r.ch.count.toNat ∧ r.ch.div < m.cfg.channelDivisor := by
  cases hc
  case muxCount => exact ⟨le_refl _, hdiv⟩
  case muxTick =>
    rw [Sched.tick_count]
    exact ⟨Sched.tick_cur_le hcur, Sched.tick_div_lt hdiv⟩
  all_goals simp [hcur, hdiv]

/-- R41 (d): a tick and the control write leave the prescaler at most at its reload value. -/
theorem CycleStep.prescaler_le {reload : Nat} {q q' : Irq} {i : Instr}
    (hs : CycleStep reload q i q') (h : q.prescaler ≤ reload) : q'.prescaler ≤ reload := by
  cases hs
  case tick =>
    rw [Irq.tick_prescaler]
    split_ifs <;> omega
  case control v =>
    unfold Irq.control
    dsimp only
    split
    · exact le_refl _
    · exact h
  all_goals exact h

/-- R41 (d). -/
theorem RegsChange.prescaler_le {m : Instance} {i : Instr} {r : Regs} (hc : RegsChange m i r)
    (h : m.regs.irq.prescaler ≤ m.cfg.prescalerReload) :
    r.irq.prescaler ≤ m.cfg.prescalerReload := by
  cases hc
  case cycIrq hs => exact hs.prescaler_le h
  case scnIrq hs =>
    obtain ⟨-, -, hp⟩ := hs.frame
    exact hp ▸ h
  all_goals simp [h]

/-- R41 (f), R227: every write of the mode goes through `set_mirr`. -/
theorem RegsChange.mirr_of_fourScreen {m : Instance} {i : Instr} {r : Regs}
    (hc : RegsChange m i r) (h4 : m.cfg.initMirr = .fourScreen) : r.mirr = m.regs.mirr := by
  cases hc
  case serLoadCtrl | scnMirr | cycMirr => simp [h4]
  all_goals rfl

/-- R225: only SER, SCN and CYC write the mode. -/
theorem RegsChange.mirr_fixed {m : Instance} {i : Instr} {r : Regs} (hc : RegsChange m i r)
    (hf : m.family = .fix ∨ m.family = .dsc ∨ m.family = .mux) : r.mirr = m.regs.mirr := by
  cases hc
  case serLoadCtrl hf' _ => simp [hf'] at hf
  case scnMirr hf' | cycMirr hf' => simp [hf'] at hf
  all_goals rfl

/-- The reset write leaves the mode code `CTRL[1:0]` (R151). -/
theorem serMirr_or_0x0C (ctrl : BitVec 5) : serMirr (ctrl ||| 0x0C) = serMirr ctrl := by
  revert ctrl
  decide

/-- R41 (g): in SER the mode and `CTRL` are written together. -/
theorem RegsChange.mirr_ser {m : Instance} {i : Instr} {r : Regs} (hc : RegsChange m i r)
    (hf : m.family = .ser) (h4 : m.cfg.initMirr ≠ .fourScreen)
    (h : m.regs.mirr = serMirr m.regs.ctrl) : r.mirr = serMirr r.ctrl := by
  cases hc
  case serReset => exact h.trans (serMirr_or_0x0C _).symm
  case serLoadCtrl => simp [h4]
  case scnMirr hf' | cycMirr hf' => simp [hf] at hf'
  all_goals exact h

/-- In SCN a strobe raises while enabled only, and disabling clears. -/
theorem ScanlineStep.enabled_of_pending {q q' : Irq} {i : Instr} (hs : ScanlineStep q i q')
    (h : q.pending = true → q.enabled = true) (hp : q'.pending = true) : q'.enabled = true := by
  cases hs
  case strobe =>
    rw [Irq.strobe_pending] at hp
    rw [Irq.strobe_enabled]
    grind
  case disable => cases hp
  case enable => rfl
  all_goals exact h hp

theorem RegsChange.enabled_of_pending {m : Instance} {i : Instr} {r : Regs} (hc : RegsChange m i r)
    (hf : m.family = .scn) (h : m.regs.irq.pending = true → m.regs.irq.enabled = true)
    (hp : r.irq.pending = true) : r.irq.enabled = true := by
  cases hc
  case scnIrq hs => exact hs.enabled_of_pending h hp
  case cycIrq hf' _ => simp [hf] at hf'
  all_goals simp_all

/-- R232 from R35: in a family without a counter the record stays at its load value. -/
theorem SameUnused.quiet {c : Cfg} {f : Family} {r : Regs} (h : SameUnused f r (loadRegs c))
    (hs : f ≠ .scn) (hc : f ≠ .cyc) : r.irq.pending = false := by
  rw [h.irq hs hc]
  rfl

/-- R41: every register change keeps the invariant. -/
theorem RegsChange.regsInv {m : Instance} {i : Instr} {r : Regs} (hc : RegsChange m i r)
    (h : RegsInv m.cfg m.family m.regs) : RegsInv m.cfg m.family r := by
  obtain ⟨hcur, hdiv⟩ := hc.sched h.curLe h.divLt
  have hun := hc.sameUnused.trans h.unused
  exact {
    accClear := hc.accClear h.accClear
    curLe := hcur
    divLt := hdiv
    prescalerLe := hc.prescaler_le h.prescalerLe
    locked := fun h4 => (hc.mirr_of_fourScreen h4).trans (h.locked h4)
    serMode := fun hf h4 => hc.mirr_ser hf h4 (h.serMode hf h4)
    fixedMode := fun hf => (hc.mirr_fixed hf).trans (h.fixedMode hf)
    unused := hun
    quiet := hun.quiet
    scnPending := fun hf => hc.enabled_of_pending hf (h.scnPending hf)
    ram := hc.ramInv h.ram }

/-! ### The invariant after RESTORE -/

/-- R41 (d), whatever the blob holds: SCN keeps its prescaler, CYC takes one of its range. -/
theorem Irq.restore_prescaler_le {f : Family} {reload : Nat} {saved old : Irq}
    (h : old.prescaler ≤ reload) : (Irq.restore f reload saved old).prescaler ≤ reload := by
  cases f
  case cyc => exact restoredPrescaler_le ..
  all_goals exact h

/-- R41 after RESTORE of the registers of another cartridge of the family. -/
theorem restoreRegs_inv {m : Instance} {c : Cfg} {b : Regs} (hm : m.Inv) (hb : RegsInv c m.family b)
    (hram : RamInv m.cfg b) : RegsInv m.cfg m.family (restoreRegs m b m.regs) := by
  obtain ⟨-, -, -, -, -, -, hpos⟩ := (cfgOk_iff _).1 hm.configured.checked
  have h := hm.regs
  have hun := (restoreRegs_sameUnused m b m.regs).trans h.unused
  exact {
    accClear := by
      rw [restoreRegs_sr]
      split
      · exact hb.accClear
      · exact h.accClear
    curLe := by
      rw [restoreRegs_ch]
      split
      · exact hb.curLe
      · exact h.curLe
    divLt := by
      rw [restoreRegs_ch]
      split
      · exact Sched.restore_div_lt hpos _
      · exact h.divLt
    prescalerLe := by
      rw [restoreRegs_irq]
      exact Irq.restore_prescaler_le h.prescalerLe
    locked := fun h4 => (restoreRegs_mirr ..).trans (restoredMirr_fourScreen h4 b)
    serMode := fun hf h4 => by
      rw [restoreRegs_mirr, restoreRegs_ctrl, if_pos hf, restoredMirr_ser hf h4]
    fixedMode := fun hf => (restoreRegs_mirr ..).trans (restoredMirr_fixed hf b)
    unused := hun
    quiet := hun.quiet
    scnPending := fun hf => by
      rw [restoreRegs_irq, hf]
      exact hb.scnPending hf
    ram := hram.congr (restoreRegs_prgRam ..) (restoreRegs_chrRam ..) }

/-- R245, R249: RESTORE of a fitting blob that SAVE returned keeps the invariant. -/
theorem restore_keeps_inv {m : Instance} {b : Blob} (hm : m.Inv) (hs : b.Saved)
    (hfit : blobFits m b = true) : (m.update (restoreRegs m b.regs)).Inv := by
  obtain ⟨m₀, h₀, rfl⟩ := hs
  obtain ⟨-, hf, -, -, hram⟩ := (blobFits_iff ..).1 hfit
  have hb : RegsInv m₀.cfg m.family m₀.regs := hf ▸ h₀.regs
  exact ⟨hm.configured.update _, restoreRegs_inv hm hb hram⟩

theorem exec_keeps_inv {i : Instr} {s t : State} (hs : s.Inv)
    (hb : i = .restore → s.operand.blob.Saved) (he : exec i s = .next t) : t.Inv := by
  refine exec_keeps hs he ?init ?restore ?change
  case init => exact fun f c => loadInstance_inv
  case restore => exact fun m hi hm hfit => restore_keeps_inv hm (hb hi) hfit
  case change => exact fun m r hm hr => ⟨hm.configured.update _, hr.regsInv hm.regs⟩

/-- Settles O56: a step executes one operation or none; the operation is INIT, RESTORE of a saved blob,
UNLOAD or a register change. -/
theorem stepKeepsInvariant : Obligations.StepKeepsInvariant := by
  intro s t hs hsaved h
  rcases step_cases h with ⟨-, rfl⟩ | ⟨r, rest, i, hr, hd, he⟩
  · exact hs
  · refine exec_keeps_inv (s := s.takeRequest r rest) hs (fun hi => ?_) he
    subst hi
    exact hsaved r rest hr hd

/-! ### INIT and RESTORE by their equations -/

/-- INIT completes on an unloaded block and a configuration that passes the checks (R240). -/
theorem exec_init_next {s : State} {f : Family} (hs : s.inst = none)
    (hf : familyOf s.operand.cfg.mapper = some f) (hc : cfgOk s.operand.cfg = true) :
    exec .init s = .next (s.answer (loadInstance f s.operand.cfg) .accepted) := by
  simp [exec, execInit, hs, hf, hc]

/-- Settles O49: what INIT constructs has the values of the table, mode by mode for `CTRL`. -/
theorem initLeavesTheLoadValues : Obligations.InitLeavesTheLoadValues := by
  rintro s c f hs rfl hf hc
  refine ⟨loadInstance f s.operand.cfg, exec_init_next hs hf hc, rfl, rfl, ?_⟩
  unfold loadInstance loadRegs
  cases s.operand.cfg.initMirr <;> simp [hasChrRam] <;> decide

theorem exec_restore_next {s : State} {m : Instance} (hs : s.inst = some m)
    (hb : blobFits m s.operand.blob = true) : exec .restore s =
      .next (s.answer (m.update (restoreRegs m s.operand.blob.regs)) .accepted) := by
  simp [exec, execRestore, hs, hb]

theorem exec_restore_refused {s : State} {m : Instance} (hs : s.inst = some m)
    (hb : ¬blobFits m s.operand.blob = true) : exec .restore s = .refused .foreignBlob := by
  simp [exec, execRestore, hs, hb]

/-- Settles O53: `blobFits` splits the two clauses, and the registers agree family by family. -/
theorem restoreReplacesStateOrRefuses : Obligations.RestoreReplacesStateOrRefuses := by
  rintro s m b q hs rfl rfl
  have hram : hasChrRam m.cfg = decide (m.cfg.chrBanks = 0) := rfl
  refine ⟨fun hno => exec_restore_refused hs fun hfit => ?_, fun hv hf hp hc hr => ?_⟩
  · obtain ⟨hv, hf, hp, hc, hr⟩ := (blobFits_iff ..).1 hfit
    rcases hno with h | h | h | h | h
    · exact h hv
    · exact h hf
    · exact h hp
    · exact h (hc.trans hram)
    · exact h hr
  · rw [exec_restore_next hs ((blobFits_iff ..).2 ⟨hv, hf, hp, hc.trans hram.symm, hr⟩)]
    congr 3
    funext r
    cases hfam : m.family <;>
      simp [restoreRegs, restoredMirr, Irq.restore, restoredPrescaler, Sched.restore, hfam]

end Sys2Proof.Machine

namespace Sys2Proof.Machine

/-! ### Reads and queries -/

/-- R69: a completed query left the cartridge as it was, and asked again it gives the same output. -/
theorem query_again {i : Instr} {s t : State} {f : Instance → Output} (he : query i s f = .next t) :
    t.inst = s.inst ∧ ∃ u, query i t f = .next u ∧ u.out = t.out ∧ u.inst = s.inst := by
  obtain ⟨m, hm, hi, rfl⟩ := query_cases he
  exact ⟨hm.symm, _, query_next (s.answer_inst m _) hi f, rfl, hm.symm⟩

/-- Settles O21: the five bus reads and the two queries are all of the form `query`. -/
theorem readsHaveNoSideEffect : Obligations.ReadsHaveNoSideEffect := by
  intro s t a i hi he
  simp only [List.mem_cons, List.not_mem_nil, or_false] at hi
  rcases hi with rfl | rfl | rfl | rfl | rfl | rfl | rfl <;> exact query_again he

/-! ### A byte stored in RAM -/

theorem RamInv.prgRam_wf {c : Cfg} {r : Regs} (h : RamInv c r) (hp : c.hasPrgRam = true) :
    Mem.wf ramSize r.prgRam = true := by
  simpa [ramShape, hp] using h.prgRam

theorem RamInv.chrRam_wf {c : Cfg} {r : Regs} (h : RamInv c r) (hc : hasChrRam c = true) :
    Mem.wf ramSize r.chrRam = true := by
  simpa [ramShape, hc] using h.chrRam

theorem hasPrgRam_of_ramAnswers {m : Instance} (h : ramAnswers m = true) :
    m.cfg.hasPrgRam = true :=
  (Bool.and_eq_true_iff.1 h).1

section
variable {s : State} {m : Instance} {a : Addr} {d : Byte}

/-- R127, with program RAM answering. -/
theorem exec_ramWr_stores (h : Accepts s m (.ramWr a d)) (hr : ramAnswers m = true) :
    exec (.ramWr a d) s = .next (s.answer
      (m.update fun r => { r with prgRam := r.prgRam.write (ramOffset a) d }) .nothing) := by
  obtain ⟨hm, hi⟩ := h
  refine (command_next hm hi _).trans ?_
  simp only [hr, if_true]

/-- R125, with program RAM answering. -/
theorem exec_ramRd_reads (h : Accepts s m (.ramRd a)) (hr : ramAnswers m = true) :
    exec (.ramRd a) s
      = .next (s.answer m (.byte (m.regs.prgRam.read (ramOffset a)))) := by
  obtain ⟨hm, hi⟩ := h
  refine (query_next hm hi _).trans ?_
  rw [if_pos hr]

/-- R131, on graphics RAM. -/
theorem exec_chrWr_stores {off : Nat} (h : Accepts s m (.chrWr a d))
    (hc : hasChrRam m.cfg = true) (ho : chrOffset m a = some off) :
    exec (.chrWr a d) s = .next (s.answer
      (m.update fun r => { r with chrRam := r.chrRam.write off d }) .nothing) := by
  obtain ⟨hm, hi⟩ := h
  refine (command_next hm hi _).trans ?_
  simp only [ho, hc, if_true]

/-- R130, on graphics RAM. -/
theorem exec_chrRd_reads {off : Nat} (h : Accepts s m (.chrRd a))
    (hc : hasChrRam m.cfg = true) (ho : chrOffset m a = some off) :
    exec (.chrRd a) s = .next (s.answer m (.byte (m.regs.chrRam.read off))) := by
  obtain ⟨hm, hi⟩ := h
  refine (query_next hm hi _).trans ?_
  simp only [chrByte, chrMem, ho, hc, if_true]

/-- R123: every pattern address has an offset. -/
theorem chrOffset_of_accepts (h : Accepts s m (.chrWr a d)) : ∃ off, chrOffset m a = some off := by
  obtain ⟨w, -, -, hw⟩ :=
    lookup_of_covered (size := chrSize m.cfg) (chrTable_covers m ((within_iff ..).1 h.2).2)
  exact ⟨_, hw⟩

end

/-- The windows do not depend on what graphics RAM holds. -/
theorem chrOffset_update_chrRam (m : Instance) (f : Regs → Mem) (a : Addr) :
    chrOffset (m.update fun r => { r with chrRam := f r }) a = chrOffset m a :=
  rfl

/-- R72 (b), program RAM: RAM.WR does not close the gate, and the offset is the address's alone. -/
theorem ramRd_after_ramWr {s : State} {m : Instance} {a : Addr} {d : Byte}
    (h : Accepts s m (.ramWr a d)) (hram : RamInv m.cfg m.regs) (hr : ramAnswers m = true) :
    ∃ t u, exec (.ramWr a d) s = .next t ∧ exec (.ramRd a) t = .next u ∧ u.out = .byte d := by
  refine ⟨_, _, exec_ramWr_stores h hr, exec_ramRd_reads ⟨rfl, h.2⟩ hr, ?_⟩
  have hwf := hram.prgRam_wf (hasPrgRam_of_ramAnswers hr)
  simp [Mem.read_write hwf]

/-- R72 (b), graphics RAM: the store goes to the one offset both windows show. -/
theorem chrRd_after_chrWr {s : State} {m : Instance} {a b : Addr} {d : Byte}
    (h : Accepts s m (.chrWr a d)) (hb : Accepts s m (.chrRd b)) (hram : RamInv m.cfg m.regs)
    (hc : hasChrRam m.cfg = true) (hab : chrOffset m b = chrOffset m a) :
    ∃ t u, exec (.chrWr a d) s = .next t ∧ exec (.chrRd b) t = .next u ∧ u.out = .byte d := by
  obtain ⟨off, ho⟩ := chrOffset_of_accepts h
  have ho' := (chrOffset_update_chrRam m (fun r => r.chrRam.write off d) b).trans (hab.trans ho)
  refine ⟨_, _, exec_chrWr_stores h hc ho, exec_chrRd_reads ⟨rfl, hb.2⟩ hc ho', ?_⟩
  simp [Mem.read_write (hram.chrRam_wf hc)]

/-- Settles O20: one read after one write, in each of the two regions. -/
theorem storedByteIsReadBack : Obligations.StoredByteIsReadBack := by
  refine ⟨fun s m a d => ramRd_after_ramWr, fun s m a b d h hb hram hc => ?_⟩
  exact chrRd_after_chrWr h hb hram (by simp [hasChrRam, hc])

/-! ### What only a store changes -/

/-- R64: of the register changes, RAM.WR alone reaches program RAM. -/
theorem RegsChange.prgRam_eq {m : Instance} {i : Instr} {r : Regs} (hc : RegsChange m i r)
    (hi : ∀ a d, i ≠ .ramWr a d) : r.prgRam = m.regs.prgRam := by
  cases hc
  case prgRam => exact absurd rfl (hi _ _)
  case serLoadCtrl | scnMirr | cycMirr => simp
  all_goals rfl

/-- R64: of the register changes, CHR.WR alone reaches graphics RAM. -/
theorem RegsChange.chrRam_eq {m : Instance} {i : Instr} {r : Regs} (hc : RegsChange m i r)
    (hi : ∀ a d, i ≠ .chrWr a d) : r.chrRam = m.regs.chrRam := by
  cases hc
  case chrRam => exact absurd rfl (hi _ _)
  case serLoadCtrl | scnMirr | cycMirr => simp
  all_goals rfl

/-! ### A write into ROM space made twice -/

/-- R141: only DSC has conflicts. -/
theorem Instance.Configured.family_of_conflict {m : Instance} (h : m.Configured)
    (hc : m.conflict = true) : m.family = .dsc := by
  have hp := h.conflict.symm.trans hc
  cases hf : m.family
  case dsc => rfl
  all_goals simp [hf, conflictPolicy] at hp

/-- A window that ends at or below the address is passed over. -/
theorem lookup_cons_of_le {base wsize a : Nat} (h : base + wsize ≤ a) (size sel : Nat)
    (t : List Window) : lookup size (⟨base, wsize, sel⟩ :: t) a = lookup size t a := by
  have hc : ¬ (a < base + wsize) := by omega
  simp [lookup, Window.covers, hc]

/-- R145: above the switchable window of DSC the offset does not depend on the registers. -/
theorem prgOffset_of_dsc_upper {m : Instance} {a : Addr} (hf : m.family = .dsc)
    (ha : 0xC000 ≤ a.toNat) : prgOffset m a =
      lookup (prgSize m.cfg) [⟨0xC000, 16384, selLast (prgSize m.cfg) 16384⟩] a.toNat := by
  unfold prgOffset prgTable
  rw [hf]
  exact lookup_cons_of_le ha ..

theorem prgByte_update_of_dsc_upper {m : Instance} {a : Addr} (hf : m.family = .dsc)
    (ha : 0xC000 ≤ a.toNat) (f : Regs → Regs) : prgByte (m.update f) a = prgByte m a := by
  unfold prgByte
  rw [prgOffset_of_dsc_upper hf ha, prgOffset_of_dsc_upper (m := m.update f) hf ha]
  rfl

/-- R140: registers change the effective byte of a write only through the switchable window of a
board with conflicts. -/
theorem resolve_update {m : Instance} {a : Addr} {d : Byte} {f : Regs → Regs} (h : m.Configured)
    (hsw : m.conflict = true → a.toNat < 0xC000 →
      d &&& prgByte (m.update f) a = d &&& prgByte m a) :
    resolve (m.update f) a d = resolve m a d := by
  cases hc : m.conflict with
  | false => rw [resolve_off hc, resolve_off (m := m.update f) hc]
  | true =>
    rw [resolve_on hc, resolve_on (m := m.update f) hc]
    by_cases ha : a.toNat < 0xC000
    · exact hsw hc ha
    · rw [prgByte_update_of_dsc_upper (h.family_of_conflict hc) (Nat.le_of_not_lt ha)]

theorem setElem_setElem (v : Vector Byte 8) (k : BitVec 3) (b : Byte) :
    setElem (setElem v k b) k b = setElem v k b := by
  simp [setElem]

theorem setMirr_setMirr (m : Instance) (v : Mirr) (r : Regs) :
    setMirr m v (setMirr m v r) = setMirr m v r := by
  unfold setMirr
  split <;> rfl

theorem Irq.setLatch_setLatch (q : Irq) (v : Byte) :
    (q.setLatch v).setLatch v = q.setLatch v :=
  rfl

/-- R193: the control write copies nothing that it changes. -/
theorem Irq.control_control (reload : Nat) (q : Irq) (v : Byte) :
    (q.control reload v).control reload v = q.control reload v := by
  cases hv : v.getLsbD 1 <;>
    simp only [Irq.control, hv, if_true, Bool.false_eq_true, if_false]

/-- `i` is a command that, made again with the same effective byte, changes nothing: what R70 says of
a write of `d` at `a`. -/
def IdempotentWrite (a : Addr) (d : Byte) (i : Instr) : Prop :=
  ∃ f : Instance → Regs → Regs, (∀ s, exec i s = command i s f) ∧
    ∀ m k r, resolve (m.update k) a d = resolve m a d → f (m.update k) (f m r) = f m r

/-- R70: the writes into program-ROM space outside SER. -/
theorem romWrite_idempotent {a : Addr} {d : Byte} {i : Instr}
    (hi : i ∈ [.romNop a d, .dscBank a d, .scnBsel a d, .scnBdat a d, .scnMirr a d, .scnNop a d,
      .scnLatch a d, .scnReload a d, .scnDisable a d, .scnEnable a d, .cycPrg16 a d, .cycMirr a d,
      .cycPrg8 a d, .cycChrlo a d, .cycChrhi a d, .cycLatch a d, .cycCtrl a d, .cycAck a d,
      .muxChr a d, .muxPrg0 a d, .muxPrg1 a d, .muxPrg2 a d]) : IdempotentWrite a d i := by
  -- an operation not in the list closes here; the others have the operands `a` and `d`
  cases i <;> simp at hi <;> obtain ⟨rfl, rfl⟩ := hi
  case romNop | scnNop | scnReload | scnDisable | scnEnable | cycAck =>
    exact ⟨_, fun _ => rfl, fun _ _ _ _ => rfl⟩
  case dscBank | scnBsel | cycPrg16 | cycPrg8 =>
    exact ⟨_, fun _ => rfl, fun m k r hv => by rw [hv]⟩
  case scnLatch | cycLatch =>
    exact ⟨_, fun _ => rfl, fun m k r hv => by simp only [hv, Irq.setLatch_setLatch]⟩
  case scnBdat | cycChrlo | cycChrhi | muxChr =>
    exact ⟨_, fun _ => rfl, fun m k r hv => by simp only [hv, setElem_setElem]⟩
  case muxPrg0 | muxPrg1 | muxPrg2 =>
    exact ⟨_, fun _ => rfl, fun m k r hv => by simp only [hv, Vector.set_set]⟩
  case scnMirr | cycMirr =>
    exact ⟨_, fun _ => rfl, fun m k r hv => by rw [hv]; exact setMirr_setMirr ..⟩
  case cycCtrl =>
    exact ⟨_, fun _ => rfl, fun m k r hv => by
      simp only [hv, Instance.update_cfg, Irq.control_control]⟩

/-- R70: a completed write of this kind, made again with the same effective byte, leaves the state of
once. -/
theorem IdempotentWrite.exec_again {s t : State} {m u : Instance} {i : Instr} {a : Addr} {d : Byte}
    (hw : IdempotentWrite a d i) (hm : s.inst = some m) (hc : m.Configured)
    (he : exec i s = .next t) (hu : t.inst = some u)
    (hsw : m.conflict = true → a.toNat < 0xC000 → d &&& prgByte u a = d &&& prgByte m a) :
    exec i t = .next t := by
  obtain ⟨f, hexec, hf⟩ := hw
  rw [hexec] at he ⊢
  have hu' : u = m.update (f m) := by
    obtain ⟨m', hm', -, rfl⟩ := command_cases he
    cases hm'.symm.trans hm
    cases hu
    rfl
  subst hu'
  exact command_twice hm he (hf m _ _ (resolve_update hc hsw))

/-- Settles O22: the first part by the register changes, the second by the list of writes. -/
theorem onlyStoresChangeMemory : Obligations.OnlyStoresChangeMemory := by
  refine ⟨fun s t m u i hm he hu hi => ?_, fun s t m u i a d hm hc hi he hu hsw =>
    (romWrite_idempotent hi).exec_again hm hc he hu hsw⟩
  obtain ⟨r, hr, rfl⟩ := exec_changed hm he hu hi
  exact ⟨hr.prgRam_eq, hr.chrRam_eq⟩

end Sys2Proof.Machine

namespace Sys2Proof.Machine

/-! ### Encoding: decode and encode are inverse, and what decode refuses -/

/-! What decode answers, in the order of R265: the form of the word, the phase, the cartridge. -/

theorem decode_of_no_op {phase : Option Family} {w : Word}
    (hop : BusOp.ofCode (opField w).toNat = none) : decode phase w = .error .notAnOperation := by
  simp [decode, hop]

section
variable {phase : Option Family} {w : Word} {op : BusOp}
  (hop : BusOp.ofCode (opField w).toNat = some op)
include hop

theorem decode_of_unused_ne_zero (hz : op.unusedZero (addrField w) (dataField w) = false) :
    decode phase w = .error .notAnOperation := by
  simp [decode, hop, hz]

theorem decode_none (hz : op.unusedZero (addrField w) (dataField w) = true) :
    decode none w = if op = .init then .ok .init else .error .notLoaded := by
  simp [decode, hop, hz]

theorem decode_some (f : Family) (hz : op.unusedZero (addrField w) (dataField w) = true) :
    decode (some f) w = decodeLoaded f op (addrField w) (dataField w) := by
  simp [decode, hop, hz]

theorem pack_fields_of_ofCode : pack op (addrField w) (dataField w) = w :=
  pack_fields (BitVec.eq_of_toNat_eq (ofCode_eq_some hop))

end

/-- Every operation's word has the op of its row and zero in its unused fields (R90, R91). -/
theorem wordForm (i : Instr) : Laws.WordForm.Statement i := by
  cases i <;> exact Laws.WordForm.of_pack _ _ _ rfl rfl rfl

/-- A write at 0x8000 or above is decoded by the family (R95). -/
theorem decodeCpuWrite_rom {f : Family} {a : Addr} {d : Byte} (ha : 0x8000 ≤ a.toNat) :
    decodeCpuWrite f a d = .ok (decodeRomWrite f a d) := by
  rw [decodeCpuWrite, if_neg (by omega), if_neg (by omega), if_neg (by omega)]

/-- The operand predicates of an operation's row of R92 select, in the decoder of its op and family
(R94 to R101), the branch that answers this operation. -/
theorem decode_encode {f : Family} {i : Instr} (h : i.inFamily f = true) :
    decode (some f) (encode i) = .ok i := by
  obtain ⟨hop, hz⟩ := wordForm i
  rw [decode_some hop f hz]
  -- the goal speaks of the row's decoder, the hypothesis of the address as a number
  cases i <;>
    simp only [encode, Laws.rowOp, addrField_pack, dataField_pack, decodeLoaded] <;>
    simp only [Instr.inFamily, Bool.and_eq_true, beq_iff_eq, Bool.not_eq_true', within_iff, even_iff,
      decide_eq_true_eq, decide_eq_false_iff_not, Addr.low2, shifts_eq] at h
  case prgRd | ramRd | expRd => grind [decodeCpuRead]
  case chrRd | ntRd => grind [decodePpuRead]
  case chrWr | ntWr => grind [decodePpuWrite]
  case muxCount | ramWr | expWr => grind [decodeCpuWrite, within_iff]
  case dscBank => grind [decodeCpuWrite_rom, decodeRomWrite]
  case serReset | serSh0 | serSh1 | serSh2 | serSh3 =>
    grind [decodeCpuWrite_rom, decodeRomWrite, decodeSer, toNat_quarter]
  case scnBsel | scnBdat | scnMirr | scnNop | scnLatch | scnReload | scnDisable | scnEnable =>
    grind [decodeCpuWrite_rom, decodeRomWrite, decodeScn, toNat_quarter, odd_iff]
  case cycPrg16 | cycMirr | cycPrg8 | cycChrlo | cycChrhi | cycLatch | cycCtrl | cycAck =>
    grind [decodeCpuWrite_rom, decodeRomWrite, decodeCyc, toNat_page, toNat_a2]
  case muxChr | muxPrg0 | muxPrg1 | muxPrg2 =>
    grind [decodeCpuWrite_rom, decodeRomWrite, decodeMux, toNat_block]
  case romNop a d =>
    cases f <;>
      simp only [Family.romUnclaimed, Bool.or_eq_true, Bool.and_eq_true, within_iff, beq_iff_eq,
        bne_iff_ne, Addr.low2, Bool.false_eq_true] at h
    case fix => grind [decodeCpuWrite_rom, decodeRomWrite]
    case cyc => grind [decodeCpuWrite_rom, decodeRomWrite, decodeCyc, toNat_page, toNat_a2]
    case mux => grind [decodeCpuWrite_rom, decodeRomWrite, decodeMux, toNat_block]
  case clkCyc | clkMux => rw [h, decodeClk]
  case clkNop => cases f <;> simp_all [decodeClk]
  case scanScn => rw [h, decodeScan]
  case scanNop => cases f <;> simp_all [decodeScan]
  case init => cases h

/-- Settles O1: INIT by evaluation, and the operations of a loaded cartridge by their rows of R92. -/
theorem decodeInvertsEncode : Obligations.DecodeInvertsEncode := by
  rintro (_ | f) i h
  · obtain rfl : i = .init := by simpa [Instr.wf] using h
    decide
  · exact decode_encode h

/-! Whatever decode accepts comes from its own word. -/

theorem encode_decodeRomWrite (f : Family) (a : Addr) (d : Byte) :
    encode (decodeRomWrite f a d) = pack .cpuw a d := by
  cases f <;> simp only [decodeRomWrite, decodeSer, decodeScn, decodeCyc, decodeMux] <;>
    repeat' split
  all_goals rfl

/-- R96 to R101 answer, for a write at 0x8000 or above, an operation whose row has this family and
allows these operands. -/
theorem decodeRomWrite_inFamily {f : Family} {a : Addr} {d : Byte} (ha : 0x8000 ≤ a.toNat) :
    (decodeRomWrite f a d).inFamily f = true := by
  have := a.isLt
  cases f <;> simp only [decodeRomWrite]
  case fix | dsc => grind [Instr.inFamily, Family.romUnclaimed, within_iff]
  case ser => grind [decodeSer, Instr.inFamily, within_iff, shifts_eq, toNat_quarter]
  case scn => grind [decodeScn, Instr.inFamily, within_iff, even_iff, odd_iff, toNat_quarter]
  case cyc =>
    grind [decodeCyc, Instr.inFamily, Family.romUnclaimed, within_iff, Addr.low2, toNat_page,
      toNat_a2]
  case mux => grind [decodeMux, Instr.inFamily, Family.romUnclaimed, within_iff, toNat_block]

/-- What a loaded cartridge decodes meets its row of R92 and is encoded with the fields it was read
from. -/
theorem decodeLoaded_eq_ok {f : Family} {op : BusOp} {a : Addr} {d : Byte} {i : Instr}
    (hz : op.unusedZero a d = true) (h : decodeLoaded f op a d = .ok i) :
    i.inFamily f = true ∧ encode i = pack op a d := by
  have ha := a.isLt
  cases op <;>
    simp only [BusOp.unusedZero, BusOp.usesAddr, BusOp.usesData, Bool.true_or, Bool.false_or,
      Bool.true_and, Bool.and_eq_true, beq_iff_eq] at hz <;>
    simp only [decodeLoaded, decodeCpuRead, decodeCpuWrite, decodePpuRead, decodePpuWrite] at h
  case cpur | ppur =>
    subst hz
    split_ifs at h <;> cases h <;> exact ⟨(within_iff ..).mpr (by omega), rfl⟩
  case ppuw => split_ifs at h <;> cases h <;> exact ⟨(within_iff ..).mpr (by omega), rfl⟩
  case cpuw =>
    split_ifs at h <;> cases h
    case pos hc => exact ⟨by simp [Instr.inFamily, within_iff, hc], rfl⟩
    case neg hc => exact ⟨by grind [Instr.inFamily, within_iff], rfl⟩
    · exact ⟨(within_iff ..).mpr (by omega), rfl⟩
    · exact ⟨decodeRomWrite_inFamily (by omega), encode_decodeRomWrite f a d⟩
  case init => cases h
  case clk | scan =>
    obtain ⟨rfl, rfl⟩ := hz
    cases h
    cases f <;> exact ⟨rfl, rfl⟩
  case qmir | qirq | save | restore | unload =>
    obtain ⟨rfl, rfl⟩ := hz
    cases h
    exact ⟨rfl, rfl⟩

/-- Settles O2: decode answered an operation, so the word has a form of R90, and it is INIT on an
unloaded block or what the loaded cartridge decodes. -/
theorem decodedWordEncodesItsInstruction : Obligations.DecodedWordEncodesItsInstruction := by
  intro phase w i h
  cases hop : BusOp.ofCode (opField w).toNat with
  | none => rw [decode_of_no_op hop] at h; cases h
  | some op =>
    have hw := pack_fields_of_ofCode hop
    cases hz : op.unusedZero (addrField w) (dataField w) with
    | false => rw [decode_of_unused_ne_zero hop hz] at h; cases h
    | true =>
      cases phase with
      | some f =>
        rw [decode_some hop f hz] at h
        exact hw ▸ decodeLoaded_eq_ok hz h
      | none =>
        rw [decode_none hop hz] at h
        obtain ⟨rfl, rfl⟩ : op = .init ∧ i = .init := by split at h <;> simp_all
        obtain ⟨ha, hd⟩ : addrField w = 0 ∧ dataField w = 0 := by
          simpa [BusOp.unusedZero, BusOp.usesAddr, BusOp.usesData] using hz
        rw [ha, hd] at hw
        exact ⟨rfl, hw⟩

/-! The refusals by number: the fields of a word, and the reasons in terms of them. -/

theorem toNat_opField (w : Word) : (opField w).toNat = w.toNat / 2 ^ 24 := by
  have hw := w.isLt
  simp only [opField, BitVec.extractLsb'_toNat, Nat.shiftRight_eq_div_pow]
  omega

theorem toNat_addrField (w : Word) : (addrField w).toNat = w.toNat / 2 ^ 8 % 2 ^ 16 := by
  simp only [addrField, BitVec.extractLsb'_toNat, Nat.shiftRight_eq_div_pow]

theorem toNat_dataField (w : Word) : (dataField w).toNat = w.toNat % 2 ^ 8 := by
  simp [dataField]

theorem code_toNat_eq_eight (op : BusOp) : op.code.toNat = 8 ↔ op = .init := by
  cases op <;> decide

/-- R90, R91: ops 0 to 3 use the address, ops 1 and 3 the data. -/
theorem unusedZero_eq_false (op : BusOp) (a : Addr) (d : Byte) :
    op.unusedZero a d = false ↔ (4 ≤ op.code.toNat ∧ a.toNat ≠ 0) ∨
      (op.code.toNat ≠ 1 ∧ op.code.toNat ≠ 3 ∧ d.toNat ≠ 0) := by
  have ha : a.toNat = 0 ↔ a = 0 := by simp [← BitVec.toNat_inj]
  have hd : d.toNat = 0 ↔ d = 0 := by simp [← BitVec.toNat_inj]
  simp only [ne_eq, ha, hd]
  cases op <;> simp [BusOp.unusedZero, BusOp.usesAddr, BusOp.usesData, BusOp.code]
  all_goals tauto

/-- R94, R95: on a loaded cartridge an address outside the domain of its bus is refused, and with
any other every op but INIT has a meaning. -/
theorem decodeLoaded_domain {f : Family} {op : BusOp} {a : Addr} {d : Byte} (hi : op ≠ .init) :
    if (op.code.toNat ≤ 1 ∧ a.toNat < 0x4020) ∨
        ((op.code.toNat = 2 ∨ op.code.toNat = 3) ∧ 0x3FFF < a.toNat) then
      decodeLoaded f op a d = .error .notInDomain
    else ∃ i, decodeLoaded f op a d = .ok i := by
  cases op
  case init => exact absurd rfl hi
  case cpur | cpuw | ppur | ppuw =>
    simp only [decodeLoaded, decodeCpuRead, decodeCpuWrite, decodePpuRead, decodePpuWrite]
    split_ifs <;> simp_all [BusOp.code]
  case clk | scan | qmir | qirq | save | restore | unload => simp [BusOp.code, decodeLoaded]

/-- Settles O3: the tests of decode one after another, each brought to the word's numbers. -/
theorem decodeRefusesInOrder : Obligations.DecodeRefusesInOrder := by
  rintro phase w op a d rfl rfl rfl
  rw [← toNat_opField, ← toNat_addrField, ← toNat_dataField]
  cases hop : BusOp.ofCode (opField w).toNat with
  | none =>
    rw [if_pos (.inl (ofCode_eq_none.mp hop))]
    exact decode_of_no_op hop
  | some b =>
    have h0B : ¬ 0x0B < (opField w).toNat := by simp [← ofCode_eq_none, hop]
    simp only [h0B, false_or]
    simp only [← ofCode_eq_some hop, code_toNat_eq_eight, ← unusedZero_eq_false]
    cases hz : b.unusedZero (addrField w) (dataField w) with
    | false => simpa using decode_of_unused_ne_zero hop hz
    | true =>
      rw [if_neg (by simp)]
      cases phase with
      | none => simpa using decode_none hop hz
      | some f =>
        rw [if_neg (by simp), decode_some hop f hz]
        by_cases hb : b = .init
        · rw [if_pos hb, hb]; rfl
        · rw [if_neg hb]; exact decodeLoaded_domain hb

/-- Settles O4: the eight words by evaluation. -/
theorem specWordsDecode : Obligations.SpecWordsDecode := by
  unfold Obligations.SpecWordsDecode
  decide

end Sys2Proof.Machine

namespace Sys2Proof.Machine

/-! ### Windows: which one shows an address, and where it leads -/

/-- `windowAt a (sel, wsize)`: the window of `wsize` bytes that starts at a multiple of its size,
covers `a` and shows bank `sel`. -/
def windowAt (a : Nat) (p : Nat × Nat) : Window := ⟨a / p.2 * p.2, p.2, p.1⟩

/-- R121: seen from a window that starts at a multiple of its size, the offset inside the bank is the
low part of the address. -/
theorem translate_windowAt (size a : Nat) (p : Nat × Nat) :
    translate size (windowAt a p) a = p.1 % nbanks size p.2 * p.2 + a % p.2 := by
  have h : a - a / p.2 * p.2 = a % p.2 := by rw [Nat.mod_eq_sub_div_mul]
  simp only [translate, windowAt, h, Nat.mod_mod]

/-- Every window of the table that covers `a` has the selector and size `p`. -/
def Shows (t : List Window) (a : Nat) (p : Nat × Nat) : Prop :=
  ∀ w ∈ t, w.covers a = true → (w.sel, w.wsize) = p

@[simp] theorem shows_nil (a : Nat) (p : Nat × Nat) : Shows [] a p := by simp [Shows]

@[simp] theorem shows_cons (base wsize sel a : Nat) (t : List Window) (p : Nat × Nat) :
    Shows (⟨base, wsize, sel⟩ :: t) a p ↔
      (base ≤ a → a < base + wsize → (sel, wsize) = p) ∧ Shows t a p := by
  simp only [Shows, List.forall_mem_cons, Window.covers_iff, and_imp]

/-- A window whose base is a multiple of its size is the one its selector and size give at any address
it covers. -/
theorem eq_windowAt {w : Window} {a : Nat} {p : Nat × Nat} (hd : w.wsize ∣ w.base)
    (hc : w.covers a = true) (hp : (w.sel, w.wsize) = p) : w = windowAt a p := by
  obtain ⟨base, wsize, sel⟩ := w
  obtain ⟨hlo, hhi⟩ := (Window.covers_iff ..).1 hc
  obtain ⟨k, rfl⟩ : wsize ∣ base := hd
  subst hp
  have hk : a / wsize = k :=
    Nat.div_eq_of_lt_le (by rwa [Nat.mul_comm]) (by rwa [Nat.mul_comm, Nat.mul_succ])
  rw [windowAt, hk, Nat.mul_comm]

/-- A table of aligned windows translates an address it covers through the window that its selector
and size give. -/
theorem lookup_of_shows {t : List Window} {a : Nat} {p : Nat × Nat} (hs : Shows t a p)
    (hd : ∀ q ∈ frameOf t, q.2 ∣ q.1) (hc : ∃ w ∈ t, w.covers a = true) (size : Nat) :
    windowAt a p ∈ t ∧ (windowAt a p).covers a = true ∧
      lookup size t a = some (translate size (windowAt a p) a) := by
  obtain ⟨w, hw, hwa, hl⟩ := lookup_of_covered (size := size) hc
  rw [← eq_windowAt (hd _ (List.mem_map_of_mem hw)) hwa (hs w hw hwa)]
  exact ⟨hw, hwa, hl⟩

/-- R42: every program window starts at a multiple of its size. -/
theorem prgFrame_aligned (f : Family) : ∀ q ∈ prgFrame f, q.2 ∣ q.1 := by
  cases f <;> decide

/-- R42: every graphics window starts at a multiple of its size. -/
theorem chrFrame_aligned (f : Family) : ∀ q ∈ chrFrame f, q.2 ∣ q.1 := by
  cases f <;> decide

/-! The fields and selectors of the window tables by arithmetic (R28, R30, R32, R120, R122). -/

theorem toNat_or_one {n : Nat} (b : BitVec (n + 1)) :
    (b ||| 1#(n + 1)).toNat = b.toNat / 2 * 2 + 1 := by
  have h1 : (1#(n + 1)).toNat = 1 := by simp
  have hd : (b.toNat ||| 1) / 2 = b.toNat / 2 := by simp [Nat.or_div_two]
  have hm : (b.toNat ||| 1) % 2 = 1 := by simp [Nat.or_mod_two_eq_one]
  rw [BitVec.toNat_or, h1]
  omega

/-- The mask that clears bit 0 (0xE, 0x1E and 0xFE in the tables) is `~~~1` of its width. -/
theorem toNat_and_not_one {n : Nat} (b : BitVec n) : (b &&& ~~~1#n).toNat = b.toNat / 2 * 2 := by
  have h : b &&& ~~~1#n = (b >>> 1) <<< 1 := by
    ext i hi
    cases i <;> simp [Nat.add_comm, BitVec.getLsbD_eq_getElem hi]
  have hb := b.isLt
  rw [h, BitVec.toNat_shiftLeft, BitVec.toNat_ushiftRight, Nat.shiftLeft_eq,
    Nat.shiftRight_eq_div_pow, Nat.mod_eq_of_lt (by omega)]

theorem serP_eq (r : Regs) : serP r = r.ctrl.toNat / 4 % 4 := by
  simp [serP, Nat.shiftRight_eq_div_pow]

theorem toNat_serB (r : Regs) : (serB r).toNat = r.prg.toNat % 16 := by
  simp [serB]

theorem serC_eq (r : Regs) : serC r = decide (16 ≤ r.ctrl.toNat) := by
  have h := r.ctrl.isLt
  simp [serC, BitVec.getLsbD, Nat.testBit_eq_decide_div_mod_eq]
  omega

theorem scnPm_eq (r : Regs) : scnPm r = decide (r.bsel.toNat / 64 % 2 = 1) := by
  simp [scnPm, BitVec.getLsbD, Nat.testBit_eq_decide_div_mod_eq]

theorem scnCm_eq (r : Regs) : scnCm r = decide (128 ≤ r.bsel.toNat) := by
  have h := r.bsel.isLt
  simp [scnCm, BitVec.getLsbD, Nat.testBit_eq_decide_div_mod_eq]
  omega

theorem nbanks_prg_16K (c : Cfg) : nbanks (prgSize c) 16384 = c.prgBanks := by
  unfold nbanks prgSize
  omega

theorem nbanks_prg_8K (c : Cfg) : nbanks (prgSize c) 8192 = 2 * c.prgBanks := by
  unfold nbanks prgSize
  omega

theorem selLast_prg_16K (c : Cfg) : selLast (prgSize c) 16384 = c.prgBanks - 1 := by
  rw [selLast, nbanks_prg_16K]

theorem selLast_prg_8K (c : Cfg) : selLast (prgSize c) 8192 = 2 * c.prgBanks - 1 := by
  rw [selLast, nbanks_prg_8K]

theorem selLast1_prg_8K (c : Cfg) : selLast1 (prgSize c) 8192 = 2 * c.prgBanks - 2 := by
  rw [selLast1, nbanks_prg_8K]
  rcases Nat.eq_zero_or_pos c.prgBanks with h | h
  · rw [h]
  · exact Nat.mod_eq_of_lt (by omega)

/-! The tables show what the address-only description says: the bounds of each window decide every
comparison of that description with the address. -/

/-- R158: B with bit 0 clear and set are the two banks of a 32 KiB pair. -/
theorem prgTableSer_shows {m : Instance} (hf : m.family = .ser) (a : Nat) :
    Shows (prgTableSer m) a (shownPrg m a) := by
  have heven : (serB m.regs &&& 0xE).toNat = m.regs.prg.toNat % 16 / 2 * 2 :=
    toNat_serB m.regs ▸ toNat_and_not_one (serB m.regs)
  have hodd : (serB m.regs ||| 1).toNat = m.regs.prg.toNat % 16 / 2 * 2 + 1 :=
    toNat_serB m.regs ▸ toNat_or_one (serB m.regs)
  unfold prgTableSer
  simp only [shownPrg, hf, serP_eq]
  split <;> simp only [shows_cons, shows_nil, selFirst, selLast_prg_16K, toNat_serB, heven, hodd] <;>
    grind

/-- R123, R145, R158, R181, R201, R218: the program window over an address shows `shownPrg`. -/
theorem prgTable_shows (m : Instance) (a : Nat) : Shows (prgTable m) a (shownPrg m a) := by
  unfold prgTable
  cases hf : m.family
  case ser => exact prgTableSer_shows hf a
  case fix =>
    simp only [shownPrg, hf, prgTableFix, shows_cons, shows_nil, selFirst, selLast_prg_16K]
    grind
  case dsc =>
    simp only [shownPrg, hf, prgTableDsc, shows_cons, shows_nil, selLast_prg_16K]
    grind
  case scn =>
    simp only [shownPrg, hf, prgTableScn, shows_cons, shows_nil, scnPm_eq, selLast1_prg_8K,
      selLast_prg_8K, decide_eq_true_eq]
    grind
  case cyc =>
    simp only [shownPrg, hf, prgTableCyc, shows_cons, shows_nil, selLast_prg_8K]
    grind
  case mux =>
    simp only [shownPrg, hf, prgTableMux, shows_cons, shows_nil, selLast_prg_8K]
    grind

/-- Eight 1 KiB windows whose selectors are `f 0` to `f 7` show bank `f k` at the addresses of the
`k`-th KiB. -/
theorem windows1K_shows {s0 s1 s2 s3 s4 s5 s6 s7 : Byte} {f : Nat → Nat}
    (h : [s0, s1, s2, s3, s4, s5, s6, s7].map BitVec.toNat = (List.range 8).map f) (a : Nat) :
    Shows (windows1K s0 s1 s2 s3 s4 s5 s6 s7) a (f (a / 1024), 1024) := by
  have hk {k n : Nat} (hn : n = f k) (hlo : 1024 * k ≤ a) (hhi : a < 1024 * k + 1024) :
      (n, 1024) = (f (a / 1024), 1024) := by
    rw [hn, show a / 1024 = k by omega]
  obtain ⟨h0, h1, h2, h3, h4, h5, h6, h7⟩ := by simpa [List.range_succ] using h
  simp only [windows1K, shows_cons, shows_nil]
  exact ⟨hk h0, hk h1, hk h2, hk h3, hk h4, hk h5, hk h6, hk h7, trivial⟩

/-- R182: `BR[0]` and `BR[1]` with bit 0 clear and set are the pairs, in the half CM selects. -/
theorem chrTableScn_shows (m : Instance) (a : Nat) :
    Shows (chrTableScn m) a (shownScnChr (scnCm m.regs) m.regs.br (a / 1024), 1024) := by
  have heven (b : Byte) : (b &&& 0xFE).toNat = b.toNat / 2 * 2 := toNat_and_not_one b
  have hodd (b : Byte) : (b ||| 1).toNat = b.toNat / 2 * 2 + 1 := toNat_or_one b
  unfold chrTableScn
  cases scnCm m.regs
  · exact windows1K_shows (f := shownScnChr false m.regs.br) (by
      simp only [List.map_cons, heven, hodd]; rfl) a
  · exact windows1K_shows (f := shownScnChr true m.regs.br) (by
      simp only [List.map_cons, heven, hodd]; rfl) a

/-- R159: `CHR0` with bit 0 clear and set are the two banks of an 8 KiB pair. -/
theorem chrTableSer_shows {m : Instance} (hf : m.family = .ser) (a : Nat) :
    Shows (chrTableSer m) a (shownChr m a) := by
  have heven : (m.regs.chr0 &&& 0x1E).toNat = m.regs.chr0.toNat / 2 * 2 := toNat_and_not_one _
  have hodd : (m.regs.chr0 ||| 1).toNat = m.regs.chr0.toNat / 2 * 2 + 1 := toNat_or_one _
  unfold chrTableSer
  simp only [shownChr, hf, serC_eq, decide_eq_true_eq]
  split <;> simp only [shows_cons, shows_nil, heven, hodd] <;> grind

/-- R123, R145, R159, R182, R201, R218: the graphics window over an address shows `shownChr`. -/
theorem chrTable_shows (m : Instance) (a : Nat) : Shows (chrTable m) a (shownChr m a) := by
  unfold chrTable
  cases hf : m.family
  case ser => exact chrTableSer_shows hf a
  case fix | dsc => simp [shownChr, hf, chrTableFixed, selFirst]
  case scn =>
    simp only [shownChr, hf, ← scnCm_eq]
    exact chrTableScn_shows m a
  case cyc | mux =>
    simp only [shownChr, hf]
    exact windows1K_shows (f := fun k => m.regs.cr[k % 8].toNat) rfl a

/-- R124: the window behind a program-ROM address, and the offset it translates to. -/
theorem prgWindow_shown {a : Addr} (ha : 0x8000 ≤ a.toNat) (m : Instance) :
    let w := windowAt a.toNat (shownPrg m a.toNat)
    w ∈ prgTable m ∧ w.covers a.toNat = true ∧
      prgOffset m a = some (translate (prgSize m.cfg) w a.toNat) := by
  refine lookup_of_shows (prgTable_shows m _) ?_ (prgTable_covers m ha (by omega)) _
  rw [frame_prgTable]
  exact prgFrame_aligned m.family

/-- R130, R131: the window behind a pattern address, and the offset it translates to. -/
theorem chrWindow_shown {a : Addr} (ha : a.toNat ≤ 0x1FFF) (m : Instance) :
    let w := windowAt a.toNat (shownChr m a.toNat)
    w ∈ chrTable m ∧ w.covers a.toNat = true ∧
      chrOffset m a = some (translate (chrSize m.cfg) w a.toNat) := by
  refine lookup_of_shows (chrTable_shows m _) ?_ (chrTable_covers m ha) _
  rw [frame_chrTable]
  exact chrFrame_aligned m.family

/-! ### Fixed windows -/

theorem inFixedWindow.rom_le {m : Instance} {a : Nat} (h : inFixedWindow m a) : 0x8000 ≤ a := by
  unfold inFixedWindow at h
  split at h <;> omega

/-- R135: what a fixed window shows depends on the cartridge and the mode fields alone. -/
theorem shownPrg_of_fixed {m m' : Instance} {a : Nat} (hc : m.cfg = m'.cfg)
    (hf : m.family = m'.family) (hp : serP m.regs = serP m'.regs)
    (hpm : scnPm m.regs = scnPm m'.regs) (h : inFixedWindow m a) :
    shownPrg m a = shownPrg m' a := by
  unfold inFixedWindow at h
  unfold shownPrg
  rw [← hf, ← hc]
  simp only [serP_eq, scnPm_eq, decide_eq_true_eq, decide_eq_false_iff_not, decide_eq_decide]
    at h hp hpm
  cases hm : m.family <;> simp only [hm] at h ⊢
  case dsc => simp only [Nat.not_lt.2 h, if_false]
  case ser =>
    rw [← hp]
    rcases h with ⟨hP, -, hhi⟩ | ⟨hP, hlo⟩
    · simp only [hP, hhi, if_true]
    · simp only [hP, Nat.not_lt.2 hlo, if_false]
  case scn =>
    simp only [← hpm]
    rcases h with hlo | ⟨hP, hlo⟩ | ⟨hP, -, hhi⟩
    · simp [show ¬ a < 0xA000 by omega, show ¬ a < 0xC000 by omega, Nat.not_lt.2 hlo]
    · simp [show ¬ a < 0xA000 by omega, Nat.not_lt.2 hlo, hP]
    · simp [hhi, hP]
  case cyc => simp [show ¬ a < 0xC000 by omega, Nat.not_lt.2 h]
  case mux => simp [show ¬ a < 0xA000 by omega, show ¬ a < 0xC000 by omega, Nat.not_lt.2 h]

/-- Settles O10: in a fixed window both instances look through the same window; the one graphics
window of FIX and DSC has no register in it. -/
theorem fixedWindowsIgnoreBankRegisters : Obligations.FixedWindowsIgnoreBankRegisters := by
  intro m m' a hc hf hp hpm
  refine ⟨fun h => ?_, fun h => ?_⟩
  · rw [(prgWindow_shown h.rom_le m).2.2, (prgWindow_shown h.rom_le m').2.2,
      shownPrg_of_fixed hc hf hp hpm h, hc]
  · unfold chrOffset chrTable
    rw [← hf, ← hc]
    rcases h with h | h <;> rw [h]

/-! ### Bus operations that complete -/

section
variable {s : State} {m : Instance} {a : Addr} {d : Byte}

/-- R124. -/
theorem exec_prgRd_reads {off : Nat} (h : Accepts s m (.prgRd a)) (ho : prgOffset m a = some off) :
    exec (.prgRd a) s = .next (s.answer m (.byte (m.cfg.prgRom.cells.read off))) := by
  obtain ⟨hm, hi⟩ := h
  refine (query_next hm hi _).trans ?_
  simp only [prgByte, ho]

/-- R130, on either graphics memory. -/
theorem exec_chrRd_chrMem {off : Nat} (h : Accepts s m (.chrRd a)) (ho : chrOffset m a = some off) :
    exec (.chrRd a) s = .next (s.answer m (.byte ((chrMem m).read off))) := by
  obtain ⟨hm, hi⟩ := h
  refine (query_next hm hi _).trans ?_
  simp only [chrByte, ho]

/-- R131, on graphics ROM. -/
theorem exec_chrWr_discards {off : Nat} (h : Accepts s m (.chrWr a d))
    (hc : hasChrRam m.cfg = false) (ho : chrOffset m a = some off) :
    exec (.chrWr a d) s = .next (s.answer m .nothing) := by
  obtain ⟨hm, hi⟩ := h
  refine (command_next hm hi _).trans ?_
  simp only [ho, hc, Bool.false_eq_true, if_false, Instance.update_self]

/-- R127, with no program RAM or its gate closed. -/
theorem exec_ramWr_ignored (h : Accepts s m (.ramWr a d)) (hr : ramAnswers m = false) :
    exec (.ramWr a d) s = .next (s.answer m .nothing) := by
  obtain ⟨hm, hi⟩ := h
  refine (command_next hm hi _).trans ?_
  simp only [hr, Bool.false_eq_true, if_false, Instance.update_self]

/-- R125, with no program RAM or its gate closed. -/
theorem exec_ramRd_openBus (h : Accepts s m (.ramRd a)) (hr : ramAnswers m = false) :
    exec (.ramRd a) s = .next (s.answer m (.byte m.cfg.openBus)) := by
  obtain ⟨hm, hi⟩ := h
  refine (query_next hm hi _).trans ?_
  simp only [hr, Bool.false_eq_true, if_false]

end

/-- R134: program RAM answers on a board that has it, unless SER gates it off. -/
theorem ramAnswers_iff (m : Instance) : ramAnswers m = true ↔
    m.cfg.hasPrgRam = true ∧ ¬(m.family = .ser ∧ m.regs.prg.getLsbD 4 = true) := by
  cases hf : m.family <;> simp [ramAnswers, ramEnabled, hf]

/-- R26, R130: a board has graphics ROM exactly when it has graphics banks. -/
theorem chrMem_eq (m : Instance) :
    chrMem m = if 0 < m.cfg.chrBanks then m.cfg.chrRom.cells else m.regs.chrRam := by
  rcases Nat.eq_zero_or_pos m.cfg.chrBanks with h | h <;>
    simp [chrMem, hasChrRam, h, Nat.ne_of_gt]

theorem chrSize_eq (c : Cfg) :
    chrSize c = if 0 < c.chrBanks then c.chrBanks * 8192 else 8192 := by
  rcases Nat.eq_zero_or_pos c.chrBanks with h | h <;>
    simp [chrSize, hasChrRam, ramSize, h, Nat.ne_of_gt]

/-! ### Program ROM -/

/-- R123: on a FIX board of one bank the offset is the place of the address in its 16 KiB, whichever
window shows it. -/
theorem prgOffset_fix_one_bank {m : Instance} {a : Addr} (hf : m.family = .fix)
    (hb : m.cfg.prgBanks = 1) (ha : 0x8000 ≤ a.toNat) : prgOffset m a = some (a.toNat % 16384) := by
  have hs : shownPrg m a.toNat = (0, 16384) := by simp [shownPrg, hf, hb]
  rw [(prgWindow_shown ha m).2.2, hs, translate_windowAt]
  simp

/-- Settles O12: both addresses have the same place in their 16 KiB. -/
theorem oneBankFixBoardMirrors : Obligations.OneBankFixBoardMirrors := by
  intro s m a b h hf hb ha hab
  have hlo : 0x8000 ≤ a.toNat := ((within_iff ..).1 h.2).1
  have hbs : Accepts s m (.prgRd b) := ⟨h.1, (within_iff ..).2 (by omega)⟩
  have hoa : a.toNat % 16384 = a.toNat - 0x8000 := by omega
  have hob : b.toNat % 16384 = a.toNat - 0x8000 := by omega
  have hra := exec_prgRd_reads h (hoa ▸ prgOffset_fix_one_bank hf hb hlo)
  have hrb := exec_prgRd_reads hbs (hob ▸ prgOffset_fix_one_bank hf hb (by omega))
  exact ⟨hra, hrb.trans hra.symm⟩

/-- Settles O13: PRG.RD looks through the aligned window with the selector and size of `shownPrg`. -/
theorem programReadReturnsWindowByte : Obligations.ProgramReadReturnsWindowByte := by
  intro s m a h
  obtain ⟨hw, hc, ho⟩ := prgWindow_shown ((within_iff ..).1 h.2).1 m
  obtain ⟨hlo, hhi⟩ := (Window.covers_iff ..).1 hc
  exact ⟨_, hw, hlo, hhi, rfl, rfl, _, rfl, ho, exec_prgRd_reads h ho⟩

/-! ### Program RAM, and operations without effect -/

/-- Settles O14: the two cases of the gate. -/
theorem ramReadReturnsByteOrOpenBus : Obligations.RamReadReturnsByteOrOpenBus := by
  intro s m a h
  cases hr : ramAnswers m with
  | true =>
    rw [if_pos ((ramAnswers_iff m).1 hr)]
    exact exec_ramRd_reads h hr
  | false =>
    rw [if_neg (mt (ramAnswers_iff m).2 (by simp [hr]))]
    exact exec_ramRd_openBus h hr

/-- Settles O15: both reads are queries that answer `OPEN_BUS`. -/
theorem undrivenReadsReturnOpenBus : Obligations.UndrivenReadsReturnOpenBus := by
  rintro s m a i (rfl | rfl) ⟨hm, hi⟩ <;> exact query_next hm hi _

/-- Settles O16: the two cases of the gate, and a read after a write. -/
theorem ramWriteStoresOneByte : Obligations.RamWriteStoresOneByte := by
  intro s m a d h hram
  cases hr : ramAnswers m with
  | true =>
    refine ⟨_, exec_ramWr_stores h hr, ?_⟩
    rw [if_pos ((ramAnswers_iff m).1 hr)]
    exact Mem.read_write (hram.prgRam_wf (hasPrgRam_of_ramAnswers hr))
  | false =>
    refine ⟨m.regs.prgRam, exec_ramWr_ignored h hr, ?_⟩
    rw [if_neg (mt (ramAnswers_iff m).2 (by simp [hr]))]

/-- Settles O17: all six are commands that leave the registers as they are. -/
theorem effectlessOperationsChangeNothing : Obligations.EffectlessOperationsChangeNothing := by
  intro s m i a d hi ⟨hm, hf⟩
  simp only [List.mem_cons, List.not_mem_nil, or_false] at hi
  rcases hi with rfl | rfl | rfl | rfl | rfl | rfl <;> exact command_next hm hf _

/-! ### Graphics memory -/

/-- Settles O18: CHR.RD looks through the aligned window with the selector and size of `shownChr`. -/
theorem graphicsReadReturnsWindowByte : Obligations.GraphicsReadReturnsWindowByte := by
  intro s m a h
  obtain ⟨hw, hc, ho⟩ := chrWindow_shown ((within_iff ..).1 h.2).2 m
  obtain ⟨hlo, hhi⟩ := (Window.covers_iff ..).1 hc
  refine ⟨_, hw, hlo, hhi, rfl, rfl, _, ?_, ho, ?_⟩
  · rw [chrSize_eq]; rfl
  · rw [exec_chrRd_chrMem h ho, chrMem_eq]
    split <;> rfl

/-- Settles O19: the offset is that of the window CHR.RD looks through; graphics RAM takes the byte
there, graphics ROM discards it. -/
theorem graphicsWriteStoresThroughWindow : Obligations.GraphicsWriteStoresThroughWindow := by
  intro s m a d h hram
  obtain ⟨hw, hc, ho⟩ := chrWindow_shown ((within_iff ..).1 h.2).2 m
  obtain ⟨hlo, hhi⟩ := (Window.covers_iff ..).1 hc
  refine ⟨_, hw, hlo, hhi, rfl, rfl, ?_⟩
  by_cases hb : m.cfg.chrBanks = 0
  · have hr : hasChrRam m.cfg = true := by simp [hasChrRam, hb]
    have hsize : chrSize m.cfg = 8192 := by simp [chrSize_eq, hb]
    refine ⟨_, exec_chrWr_stores h hr ho, ?_⟩
    rw [if_pos hb, hsize]
    exact Mem.read_write (hram.chrRam_wf hr)
  · have hr : hasChrRam m.cfg = false := by simp [hasChrRam, hb]
    refine ⟨m.regs.chrRam, exec_chrWr_discards h hr ho, ?_⟩
    rw [if_neg hb]

end Sys2Proof.Machine

namespace Sys2Proof.Machine

/-! ### The bus-conflict arbiter -/

/-- R146 (a): an AND with the data has no bit the data has clear. -/
theorem resolve_and_not (m : Instance) (a : Addr) (d : Byte) : resolve m a d &&& ~~~d = 0 := by
  cases hc : m.conflict with
  | false => rw [resolve_off hc]; exact BitVec.and_not_self d
  | true =>
    calc resolve m a d &&& ~~~d
        = d &&& ~~~d &&& prgByte m a := by rw [resolve_on hc]; ac_rfl
      _ = 0 := by rw [BitVec.and_not_self]; exact BitVec.zero_and

/-- R146 (c): a ROM byte of all ones clears nothing. -/
theorem resolve_of_prgByte_ones {m : Instance} {a : Addr} (h : prgByte m a = 0xFF) (d : Byte) :
    resolve m a d = d := by
  cases hc : m.conflict with
  | false => exact resolve_off hc a d
  | true => rw [resolve_on hc, h]; exact BitVec.and_allOnes

/-- R146 (d): a command's mask may be taken before or after the arbiter. -/
theorem resolve_and_mask (m : Instance) (a : Addr) (d mask : Byte) :
    resolve m a d &&& mask = resolve m a (d &&& mask) := by
  cases hc : m.conflict with
  | false => rw [resolve_off hc, resolve_off hc]
  | true => rw [resolve_on hc, resolve_on hc]; ac_rfl

/-- Settles O24: one lemma for each property of R146. -/
theorem arbiterOnlyClearsBits : Obligations.ArbiterOnlyClearsBits :=
  fun m a d mask => ⟨resolve_and_not m a d, fun h => resolve_off h a d,
    fun h => resolve_of_prgByte_ones h d, resolve_and_mask m a d mask⟩

/-! ### DSC.BANK -/

/-- R144: the word of DSC.BANK has the address range of PRG.RD. -/
theorem Accepts.prgRd_of_dscBank {s : State} {m : Instance} {a : Addr} {d : Byte}
    (h : Accepts s m (.dscBank a d)) : Accepts s m (.prgRd a) := by
  obtain ⟨hm, hi⟩ := h
  exact ⟨hm, ((Bool.and_eq_true ..).mp hi).2⟩

/-- Settles O23: the byte PRG.RD answers is the one the arbiter takes, so the effective byte is the
one stated. -/
theorem bankWriteTakesEffectiveByte : Obligations.BankWriteTakesEffectiveByte := by
  intro s m a d h
  obtain ⟨hm, hread⟩ := h.prgRd_of_dscBank
  exact ⟨prgByte m a, query_next hm hread _, command_next hm h.2 _⟩

/-! ### The conflict policy -/

/-- R141: a family other than DSC has no conflicts. -/
theorem conflictPolicy_of_ne_dsc {f : Family} (h : f ≠ .dsc) (c : Cfg) :
    conflictPolicy f c = false := by
  cases f
  case dsc => exact absurd rfl h
  all_goals rfl

/-- R142: the submapper decides when it is 1 or 2, the load parameter otherwise. -/
theorem submapperPolicy_eq (c : Cfg) : submapperPolicy c =
    if c.submapper = some 1 then false
    else if c.submapper = some 2 then true
    else c.conflictWhenUnspecified := by
  unfold submapperPolicy
  split
  · next h => simp [h]
  · next h => simp [h]
  · next h1 h2 => rw [if_neg h1, if_neg h2]

/-- Settles O51: a completed INIT leaves `loadInstance`, whose policy is `conflictPolicy`. -/
theorem initResolvesConflictPolicy : Obligations.InitResolvesConflictPolicy := by
  intro s t he
  obtain ⟨f, -, -, -, rfl⟩ := exec_init he
  refine ⟨_, rfl, fun hf => conflictPolicy_of_ne_dsc hf _, fun hf => ?_⟩
  cases (hf : f = .dsc)
  exact submapperPolicy_eq _

end Sys2Proof.Machine

namespace Sys2Proof.Machine

/-! ### The serial port -/

/-- R152: the accumulator takes data bit 0 at the count. -/
theorem Shift.accept_eq (q : Shift) (d : Byte) :
    q.accept d = q.acc ||| BitVec.ofNat 5 (d.toNat % 2 * 2 ^ q.cnt.val) := by
  have hbit : serialBit d <<< q.cnt.val = BitVec.ofNat 5 (d.toNat % 2 * 2 ^ q.cnt.val) := by
    apply BitVec.eq_of_toNat_eq
    simp [serialBit, Nat.shiftLeft_eq]
  rw [Shift.accept, hbit]

/-- R152 in numbers: with nothing at and above the count (R41 (a)), the bit of this write is added
with the weight of its place. -/
theorem Shift.toNat_accept {q : Shift} (h : q.acc.toNat < 2 ^ q.cnt.val) (d : Byte) :
    (q.accept d).toNat = q.acc.toNat + 2 ^ q.cnt.val * (d.toNat % 2) := by
  have hpow : 2 ^ q.cnt.val ≤ 2 ^ 4 := Nat.pow_le_pow_right (by decide) (by omega)
  have hbit : d.toNat % 2 * 2 ^ q.cnt.val < 2 ^ 5 := by
    rcases Nat.mod_two_eq_zero_or_one d.toNat with hd | hd <;> rw [hd] <;> omega
  rw [Shift.accept_eq, BitVec.toNat_or, BitVec.toNat_ofNat, Nat.mod_eq_of_lt hbit, Nat.mul_comm,
    Nat.or_comm, ← Nat.two_pow_add_eq_or_of_lt h, Nat.add_comm]

/-- R41 (a) in numbers: the accumulator stays below the weight of the next place. -/
theorem Shift.toNat_accept_lt {q : Shift} (h : q.acc.toNat < 2 ^ q.cnt.val) (d : Byte) :
    (q.accept d).toNat < 2 ^ (q.cnt.val + 1) := by
  rw [Shift.toNat_accept h, pow_succ]
  rcases Nat.mod_two_eq_zero_or_one d.toNat with hd | hd <;> rw [hd] <;> omega

/-- The modes of R154 by number. -/
theorem serMirr_eq (ctrl : BitVec 5) : serMirr ctrl =
    match ctrl.toNat % 4 with
    | 0 => .singleLow
    | 1 => .singleHigh
    | 2 => .vertical
    | _ => .horizontal := by
  revert ctrl
  decide

/-- What the fifth shift write loads, by its quarter (R154 to R157): `CTRL` with the mode it names,
unless the cartridge is four-screen, `CHR0`, `CHR1` or `PRG`. -/
def loadQuarter (m : Instance) (q : Fin 4) (v : BitVec 5) (r : Regs) : Regs :=
  { r with
    ctrl := if q = 0 then v else r.ctrl
    chr0 := if q = 1 then v else r.chr0
    chr1 := if q = 2 then v else r.chr1
    prg := if q = 3 then v else r.prg
    mirr := if q = 0 ∧ m.cfg.initMirr ≠ .fourScreen then serMirr v else r.mirr }

theorem setMirr_ctrl_eq_loadQuarter (m : Instance) (v : BitVec 5) (r : Regs) :
    setMirr m (serMirr v) { r with ctrl := v } = loadQuarter m 0 v r := by
  by_cases h : m.cfg.initMirr = .fourScreen <;> simp [setMirr, loadQuarter, h]

/-- R141: no family but DSC resolves a conflict. -/
theorem Instance.Configured.resolve_ser {m : Instance} (h : m.Configured) (hf : m.family = .ser)
    (a : Addr) (d : Byte) : resolve m a d = d := by
  refine resolve_off ?_ a d
  rw [h.conflict, hf]
  rfl

theorem ownerOf_shiftWrite (q : Fin 4) (a : Addr) (d : Byte) :
    ownerOf (shiftWrite q a d) = some .ser := by
  fin_cases q <;> rfl

/-- R152 to R157: the four shift writes are one operation with the quarter as a parameter. -/
theorem exec_shiftWrite {s : State} {m : Instance} {q : Fin 4} {a : Addr} {d : Byte}
    (h : Accepts s m (shiftWrite q a d)) (hc : m.Configured) :
    exec (shiftWrite q a d) s
      = .next (s.answer (m.update (serShift d (loadQuarter m q))) .nothing) := by
  obtain ⟨hm, hi⟩ := h
  have hd := hc.resolve_ser (family_of_owner hi (ownerOf_shiftWrite q a d)) a d
  have run (f : Instance → Regs → Regs) := command_next hm hi f
  match q with
  | 0 =>
    refine (run _).trans ?_
    simp only [hd, setMirr_ctrl_eq_loadQuarter]
  | 1 | 2 | 3 =>
    refine (run _).trans ?_
    rw [hd]
    rfl

/-- Settles O26: the count decides between the two branches of the shift step. -/
theorem shiftWriteCollectsOrLoads : Obligations.ShiftWriteCollectsOrLoads := by
  rintro s m q a d v h hc rfl
  refine ⟨_, exec_shiftWrite h hc, ?_⟩
  rw [← Shift.accept_eq]
  split
  case isTrue hlt => exact serShift_collects hlt
  case isFalse hge =>
    rw [serShift_loads (by omega), loadQuarter, serMirr_eq] <;> rfl

/-! ### A whole sequence -/

/-- R152: a shift write before the fifth changes nothing but the sequence. -/
theorem exec_shiftWrite_collects {s : State} {m : Instance} {q : Fin 4} {a : Addr} {d : Byte}
    (h : Accepts s m (shiftWrite q a d)) (hc : m.Configured) (hlt : m.regs.sr.cnt.val < 4) :
    exec (shiftWrite q a d) s = .next (s.answer (m.update fun r => { r with
      sr := ⟨m.regs.sr.accept d, ⟨m.regs.sr.cnt.val + 1, Nat.succ_lt_succ hlt⟩⟩ }) .nothing) := by
  rw [exec_shiftWrite h hc, Instance.update, serShift_collects hlt]
  rfl

/-- A shift write: its quarter, address and data byte. -/
abbrev ShiftArgs := Fin 4 × Addr × Byte

/-- The operation of R152 with these arguments. -/
def shiftInstr : ShiftArgs → Instr
  | (q, a, d) => shiftWrite q a d

/-- The number the data bits of successive writes spell, the first bit lowest (R153). -/
def serialNumber : List ShiftArgs → Nat
  | [] => 0
  | (_, _, d) :: ws => d.toNat % 2 + 2 * serialNumber ws

theorem runInstrs_cons_of_next {i : Instr} {is : List Instr} {s t : State}
    (h : exec i s = .next t) : runInstrs (i :: is) s = runInstrs is t := by
  rw [runInstrs, h]

/-- R152, R153: shift writes that do not reach the fifth collect their bits, to any quarters, and
change nothing but the sequence. -/
theorem runInstrs_shifts_collect (ws : List ShiftArgs) (rest : List Instr) {s : State}
    {m : Instance} (hm : s.inst = some m) (hf : m.family = .ser) (hc : m.Configured)
    (hi : ∀ w ∈ ws, (shiftInstr w).inFamily .ser = true)
    (hacc : m.regs.sr.acc.toNat < 2 ^ m.regs.sr.cnt.val)
    (hlen : m.regs.sr.cnt.val + ws.length ≤ 4) :
    ∃ t q, runInstrs (ws.map shiftInstr ++ rest) s = runInstrs rest t ∧
      t.inst = some (m.update fun r => { r with sr := q }) ∧
      q.cnt.val = m.regs.sr.cnt.val + ws.length ∧
      q.acc.toNat = m.regs.sr.acc.toNat + 2 ^ m.regs.sr.cnt.val * serialNumber ws ∧
      q.acc.toNat < 2 ^ q.cnt.val := by
  induction ws generalizing s m with
  | nil => exact ⟨s, m.regs.sr, rfl, hm, rfl, rfl, hacc⟩
  | cons w ws ih =>
    obtain ⟨q, a, d⟩ := w
    rw [List.length_cons] at hlen
    have hlt : m.regs.sr.cnt.val < 4 := by omega
    have hrun := exec_shiftWrite_collects ⟨hm, hf ▸ hi _ List.mem_cons_self⟩ hc hlt
    obtain ⟨t, sr, hrest, ht, hcnt, hval, hbound⟩ :=
      ih (m := m.update fun r => { r with
          sr := ⟨m.regs.sr.accept d, ⟨m.regs.sr.cnt.val + 1, Nat.succ_lt_succ hlt⟩⟩ })
        (State.answer_inst ..) hf (hc.update _) (fun w hw => hi w (List.mem_cons_of_mem _ hw))
        (Shift.toNat_accept_lt hacc d) (by dsimp only [Instance.update_regs]; omega)
    dsimp only [Instance.update_regs] at hcnt hval
    refine ⟨t, sr, (runInstrs_cons_of_next hrun).trans hrest, ht, ?_, ?_, hbound⟩
    · rw [hcnt, List.length_cons, Nat.add_right_comm, Nat.add_assoc]
    · rw [hval, Shift.toNat_accept hacc, serialNumber, pow_succ]
      ring

/-- Settles O27: four writes collect, the fifth loads. -/
theorem fiveShiftWritesLoadFifthQuarter : Obligations.FiveShiftWritesLoadFifthQuarter := by
  rintro s m q0 q1 q2 q3 q4 a0 a1 a2 a3 a4 d0 d1 d2 d3 d4 v hm hf hc hsr hi rfl
  obtain ⟨t, q, hrun, ht, hcnt, hval, hbound⟩ :=
    runInstrs_shifts_collect [(q0, a0, d0), (q1, a1, d1), (q2, a2, d2), (q3, a3, d3)]
      [shiftWrite q4 a4 d4] hm hf hc
      (fun w hw => hi _ (List.mem_append_left [shiftWrite q4 a4 d4] (List.mem_map_of_mem hw)))
      (by simp [hsr]) (by simp [hsr])
  have hfour : q.cnt.val = 4 := by simpa [hsr] using hcnt
  have hbits : q.acc.toNat = d0.toNat % 2 + 2 * (d1.toNat % 2 + 2 * (d2.toNat % 2
      + 2 * (d3.toNat % 2))) := by simpa [hsr, serialNumber] using hval
  have hlast := exec_shiftWrite (q := q4) (a := a4) (d := d4)
    ⟨ht, hf ▸ hi _ (by simp)⟩ (hc.update _)
  have hv : q.accept d4 = BitVec.ofNat 5 (d0.toNat % 2 + 2 * (d1.toNat % 2) + 4 * (d2.toNat % 2)
      + 8 * (d3.toNat % 2) + 16 * (d4.toNat % 2)) := by
    apply BitVec.eq_of_toNat_eq
    rw [Shift.toNat_accept hbound, hbits, hfour, BitVec.toNat_ofNat]
    omega
  refine ⟨_, _, hrun.trans (runInstrs_cons_of_next hlast), rfl, ?_⟩
  rw [Instance.update_regs, serShift_loads hfour, ← hv]
  exact ⟨rfl, rfl, rfl, rfl, rfl⟩

/-! ### What moves a sequence -/

/-- R162 (b): of the register changes, the serial writes alone reach the sequence. -/
theorem RegsChange.sr_eq {m : Instance} {i : Instr} {r : Regs} (hc : RegsChange m i r)
    (hreset : ∀ a d, i ≠ .serReset a d) (hshift : ∀ q a d, i ≠ shiftWrite q a d) :
    r.sr = m.regs.sr := by
  cases hc
  case serReset => exact absurd rfl (hreset _ _)
  case serCollect | serLoadBank => exact absurd rfl (hshift _ _ _)
  case serLoadCtrl => exact absurd rfl (hshift 0 _ _)
  case scnMirr | cycMirr => simp
  all_goals rfl

/-- Settles O28: a completed operation other than RESTORE made one of the register changes. -/
theorem onlySerialWritesMoveTheSequence : Obligations.OnlySerialWritesMoveTheSequence := by
  intro s t m u i hm he hu hi hreset hshift
  obtain ⟨r, hr, rfl⟩ := exec_changed hm he hu hi
  exact hr.sr_eq hreset hshift

/-! ### SER.RESET -/

/-- 0x0C is bits 3:2 of a five-bit register (R28: the P field of `CTRL`). -/
theorem getLsbD_0x0C (k : Nat) : (0x0C : BitVec 5).getLsbD k = (k == 2 || k == 3) := by
  rcases Nat.lt_or_ge k 5 with h | h
  · interval_cases k <;> rfl
  · rw [BitVec.getLsbD_of_ge _ _ h, eq_comm, Bool.or_eq_false_iff, beq_eq_false_iff_ne,
      beq_eq_false_iff_ne]
    omega

/-- Settles O25: the command by its equation, the mask bit by bit. -/
theorem serialResetAbandonsSequence : Obligations.SerialResetAbandonsSequence := by
  rintro s m a d ⟨hm, hi⟩
  refine ⟨command_next hm hi _, fun k => ?_⟩
  rw [BitVec.getLsbD_or, getLsbD_0x0C, Bool.or_assoc]

end Sys2Proof.Machine

namespace Sys2Proof.Machine

/-! ### The scanline counter, one strobe and many -/

/-- R170: a strobe writes the counter, clears the reload request and may set pending. -/
theorem Irq.strobe_eq (q : Irq) : q.strobe = { q with
    counter := q.strobe.counter, reload := false, pending := q.strobe.pending } := by
  rw [← q.strobe_latch, ← q.strobe_enabled, ← q.strobe_rearm, ← q.strobe_mode,
    ← q.strobe_prescaler, ← q.strobe_reload]

/-- R175: the counter record `k` strobes after the one that reloaded it from a latch of `n`. -/
structure Irq.CountingDown (q : Irq) (n k : Nat) : Prop where
  counter : q.counter.toNat + k = n
  pending : q.pending = decide (k = n)
  latch   : q.latch.toNat = n
  reload  : q.reload = false
  enabled : q.enabled = true

/-- R170: on a reload request or at zero the strobe starts the count from the latch. -/
theorem Irq.countingDown_of_reload {q : Irq} (hc : q.counter = 0 ∨ q.reload = true)
    (he : q.enabled = true) (hp : q.pending = false) :
    q.strobe.CountingDown q.latch.toNat 0 := by
  have hcount : q.strobe.counter = q.latch := by rw [strobe_counter, if_pos hc]
  refine ⟨by rw [hcount]; rfl, ?_, by rw [strobe_latch], strobe_reload q, by rwa [strobe_enabled]⟩
  rw [strobe_pending, hp, hcount, he, Bool.false_or, Bool.and_true, Bool.eq_iff_iff, beq_iff_eq,
    decide_eq_true_eq]
  bv_omega

/-- R170: away from zero and with no reload request the strobe decrements; the test that sets pending
is on the value it writes. -/
theorem Irq.CountingDown.strobe {q : Irq} {n k : Nat} (h : q.CountingDown n k) (hk : k < n) :
    q.strobe.CountingDown n (k + 1) := by
  obtain ⟨hcount, hp, hl, hr, he⟩ := h
  have hpos : q.counter.toNat ≠ 0 := by omega
  have hne : ¬(q.counter = 0 ∨ q.reload = true) := by simpa [hr, ← BitVec.toNat_inj] using hpos
  have hdec : q.strobe.counter.toNat + (k + 1) = n := by
    rw [strobe_counter, if_neg hne]
    bv_omega
  refine ⟨hdec, ?_, by rwa [strobe_latch], strobe_reload q, by rwa [strobe_enabled]⟩
  rw [strobe_pending, hp, he, decide_eq_false (by omega), Bool.false_or, Bool.and_true,
    Bool.eq_iff_iff, beq_iff_eq, decide_eq_true_eq]
  bv_omega

/-- R175: the first strobe reloads, and the next ones up to the latch count down. -/
theorem Irq.countingDown_iterate {q : Irq} (hc : q.counter = 0 ∨ q.reload = true)
    (he : q.enabled = true) (hp : q.pending = false) {k : Nat} (hk : k ≤ q.latch.toNat) :
    (Irq.strobe^[k + 1] q).CountingDown q.latch.toNat k := by
  induction k with
  | zero => exact countingDown_of_reload hc he hp
  | succ k ih =>
    rw [Function.iterate_succ_apply']
    exact (ih (by omega)).strobe (by omega)

/-- R175, R183: the strobe after the count has ended reloads the counter, and pending stays. -/
theorem Irq.CountingDown.strobe_end {q : Irq} {n : Nat} (h : q.CountingDown n n) :
    q.strobe.counter.toNat = n ∧ q.strobe.pending = true := by
  have hzero : q.counter = 0 := by have := h.counter; bv_omega
  constructor
  · rw [strobe_counter, if_pos (.inl hzero), h.latch]
  · rw [strobe_pending, h.pending, decide_eq_true rfl, Bool.true_or]

/-- A command whose change of the registers is the same whatever they hold (`hf`), given `k` times,
makes that change `k` times. -/
theorem runRepeat_command {i : Instr} {f : Instance → Regs → Regs}
    (hx : ∀ s, exec i s = command i s f) (k : Nat) {s : State} {m : Instance}
    (hf : ∀ g, f (m.update g) = f m) (h : Accepts s m i) :
    ∃ t, runRepeat i k s = .next t ∧ t.inst = some (m.update (f m)^[k]) := by
  induction k generalizing s m with
  | zero => exact ⟨s, rfl, h.1⟩
  | succ k ih =>
    have hone := (hx s).trans (command_next h.1 h.2 f)
    obtain ⟨t, hrun, ht⟩ := ih (m := m.update (f m))
      (fun g => (hf fun r => g (f m r)).trans (hf (f m)).symm) ⟨State.answer_inst .., h.2⟩
    refine ⟨t, (runInstrs_cons_of_next hone).trans hrun, ?_⟩
    rw [ht, hf]
    rfl

/-- `k` strobes complete and step the counter record `k` times (R170). -/
theorem runRepeat_scanScn (k : Nat) {s : State} {m : Instance} (h : Accepts s m .scanScn) :
    ∃ t u, runRepeat .scanScn k s = .next t ∧ t.inst = some u ∧
      u.regs.irq = Irq.strobe^[k] m.regs.irq := by
  obtain ⟨t, hrun, ht⟩ := runRepeat_command (fun _ => rfl) k (fun _ => rfl) h
  have hirq : Function.Semiconj Regs.irq (fun r => { r with irq := r.irq.strobe }) Irq.strobe :=
    fun _ => rfl
  exact ⟨t, _, hrun, ht, hirq.iterate_right k m.regs⟩

/-- Settles O33: strobe 1 reloads, the next N count down, and strobe N + 2 reloads again. -/
theorem scanlineInterruptTiming : Obligations.ScanlineInterruptTiming := by
  rintro s m n h rfl hc he hp
  refine ⟨fun k hk hkn => ?_, ?_⟩
  · obtain ⟨k, rfl⟩ := Nat.exists_eq_add_of_le' hk
    obtain ⟨t, u, hrun, ht, hq⟩ := runRepeat_scanScn (k + 1) h
    obtain ⟨hcount, hpend, -⟩ := Irq.countingDown_iterate hc he hp (Nat.le_of_lt_succ hkn)
    refine ⟨t, u, hrun, ht, ?_, ?_⟩
    · rw [hq]
      omega
    · simp only [hq, hpend, Nat.add_right_cancel_iff]
  · obtain ⟨t, u, hrun, ht, hq⟩ := runRepeat_scanScn (m.regs.irq.latch.toNat + 2) h
    rw [Function.iterate_succ_apply'] at hq
    exact ⟨t, u, hrun, ht, hq ▸ (Irq.countingDown_iterate hc he hp le_rfl).strobe_end⟩

/-- Settles O29: the strobe's change field by field. -/
theorem strobeStepsScanlineCounter : Obligations.StrobeStepsScanlineCounter := by
  rintro s m c ⟨hm, hi⟩ rfl
  refine (command_next hm hi _).trans ?_
  rw [Instance.update, Irq.strobe_eq, Irq.strobe_pending, Irq.strobe_counter]
  rfl

/-! ### Pending is sticky -/

/-- R183: of the operations of SCN the disable write alone can clear pending. -/
theorem ScanlineStep.pending_stays {q q' : Irq} {i : Instr} (h : ScanlineStep q i q')
    (hq : q.pending = true) (hi : ∀ a d, i ≠ .scnDisable a d) : q'.pending = true := by
  cases h
  case strobe => rw [Irq.strobe_pending, hq, Bool.true_or]
  case disable => exact absurd rfl (hi _ _)
  all_goals exact hq

/-- R183: of the operations of CYC the acknowledge write alone can clear pending. -/
theorem CycleStep.pending_stays {reload : Nat} {q q' : Irq} {i : Instr}
    (h : CycleStep reload q i q') (hq : q.pending = true) (hi : ∀ a d, i ≠ .cycAck a d) :
    q'.pending = true := by
  cases h
  case tick => rw [Irq.tick_pending, hq, Bool.true_or]
  case control => rwa [Irq.control_pending]
  case acknowledge => exact absurd rfl (hi _ _)
  case latch => exact hq

/-- R183: a register change that is no acknowledge write leaves pending set. -/
theorem RegsChange.pending_stays {m : Instance} {i : Instr} {r : Regs} (hc : RegsChange m i r)
    (hq : m.regs.irq.pending = true) (hs : ∀ a d, i ≠ .scnDisable a d)
    (hy : ∀ a d, i ≠ .cycAck a d) : r.irq.pending = true := by
  cases hc
  case scnIrq hstep => exact hstep.pending_stays hq hs
  case cycIrq hstep => exact hstep.pending_stays hq hy
  case serLoadCtrl | scnMirr | cycMirr => rwa [setMirr_irq]
  all_goals exact hq

/-- Settles O34: a completed operation other than RESTORE and UNLOAD made a register change. -/
theorem pendingIsSticky : Obligations.PendingIsSticky := by
  intro s t m i hm hq he hs hy hi hu
  obtain ⟨r, o, rfl⟩ := exec_loaded hm he hu
  obtain ⟨r', hr, hr'⟩ := exec_changed hm he (State.answer_inst ..) hi
  refine ⟨_, State.answer_inst .., ?_⟩
  rw [hr']
  exact hr.pending_stays hq hs hy

/-! ### The register writes of SCN -/

/-- R141: the effective byte of a write that a family other than DSC owns is its data byte. -/
theorem Accepts.resolve_eq {s : State} {m : Instance} {i : Instr} {f : Family}
    (h : Accepts s m i) (hc : m.Configured) (ho : ownerOf i = some f) (hf : f ≠ .dsc)
    (a : Addr) (d : Byte) : resolve m a d = d :=
  resolve_off (hc.conflict.trans (conflictPolicy_of_ne_dsc (family_of_owner h.2 ho ▸ hf) m.cfg)) a d

/-- Settles O30: four commands; the latch alone takes the byte. -/
theorem scanlineCounterWrites : Obligations.ScanlineCounterWrites := by
  intro s m a d hc
  refine ⟨fun h => ?_, fun h => command_next h.1 h.2 _, fun h => command_next h.1 h.2 _,
    fun h => command_next h.1 h.2 _⟩
  refine (command_next h.1 h.2 _).trans ?_
  rw [h.resolve_eq hc rfl (by decide)]
  rfl

/-- R177. -/
theorem exec_scnBsel {s : State} {m : Instance} {a : Addr} {d : Byte}
    (h : Accepts s m (.scnBsel a d)) (hc : m.Configured) : exec (.scnBsel a d) s
      = .next (s.answer (m.update fun r => { r with bsel := d }) .nothing) := by
  refine (command_next h.1 h.2 _).trans ?_
  rw [h.resolve_eq hc rfl (by decide)]

/-- Settles O31: BDAT writes the element that the low three bits of BSEL number. -/
theorem scanlineBankWrites : Obligations.ScanlineBankWrites := by
  intro s m a d hc
  refine ⟨fun h => exec_scnBsel h hc, fun h => ?_⟩
  refine ⟨setElem m.regs.br (m.regs.bsel.extractLsb' 0 3) d, ?_, fun k => ?_⟩
  · refine (command_next h.1 h.2 _).trans ?_
    rw [h.resolve_eq hc rfl (by decide)]
    rfl
  · have hk : (m.regs.bsel.extractLsb' 0 3).toNat = m.regs.bsel.toNat % 8 := by simp
    rw [getElem_setElem, hk]
    simp only [eq_comm]

/-! ### The mirroring writes of SCN and CYC -/

/-- R226: the mode alone, and not on a four-screen cartridge. -/
theorem setMirr_eq (m : Instance) (v : Mirr) (r : Regs) :
    setMirr m v r = { r with mirr := if m.cfg.initMirr = .fourScreen then r.mirr else v } := by
  unfold setMirr
  split <;> rfl

/-- R179 in numbers. -/
theorem scnMirrMode_eq (d : Byte) :
    scnMirrMode d = if d.toNat % 2 = 0 then .vertical else .horizontal := by
  rcases Nat.mod_two_eq_zero_or_one d.toNat with h | h <;>
    simp [scnMirrMode, BitVec.getLsbD, Nat.testBit_eq_decide_div_mod_eq, h]

/-- Settles O32: both are commands through `set_mirr`, with their mode by number. -/
theorem mirroringWritesSelectMode : Obligations.MirroringWritesSelectMode := by
  intro s m a d hc
  refine ⟨fun h => ?_, fun h => ?_⟩
  · refine (command_next h.1 h.2 _).trans ?_
    rw [h.resolve_eq hc rfl (by decide), Instance.update, setMirr_eq, scnMirrMode_eq]
    rfl
  · have hbits : (d.extractLsb' 2 2).toNat = d.toNat / 4 % 4 := by
      simp [Nat.shiftRight_eq_div_pow]
    refine (command_next h.1 h.2 _).trans ?_
    rw [h.resolve_eq hc rfl (by decide), Instance.update, setMirr_eq, cycMirrMode, hbits]
    rfl

/-! ### PM and CM -/

theorem nbanks_chr_1K (c : Cfg) :
    nbanks (chrSize c) 1024 = if 0 < c.chrBanks then 8 * c.chrBanks else 8 := by
  rw [nbanks, chrSize_eq]
  split <;> omega

/-- R181: PRG.RD in SCN answers the byte of the 8 KiB bank that the table selects. -/
theorem exec_prgRd_scn {s : State} {m : Instance} {x : Addr} {sel : Nat} (hm : s.inst = some m)
    (hx : 0x8000 ≤ x.toNat) (hs : shownPrg m x.toNat = (sel, 8192)) :
    exec (.prgRd x) s = .next (s.answer m (.byte (m.cfg.prgRom.cells.read
      (sel % (2 * m.cfg.prgBanks) * 8192 + x.toNat % 8192)))) := by
  refine exec_prgRd_reads ⟨hm, (within_iff ..).2 (by omega)⟩ ?_
  rw [(prgWindow_shown hx m).2.2, hs, translate_windowAt, nbanks_prg_8K]

/-- R182: CHR.RD through 1 KiB windows answers the byte of the bank that the table selects. -/
theorem exec_chrRd_1K {s : State} {m : Instance} {x : Addr} {sel off : Nat} (hm : s.inst = some m)
    (hx : x.toNat ≤ 0x1FFF) (hs : shownChr m x.toNat = (sel, 1024))
    (ho : off = sel % (if 0 < m.cfg.chrBanks then 8 * m.cfg.chrBanks else 8) * 1024
      + x.toNat % 1024) :
    exec (.chrRd x) s = .next (s.answer m (.byte
      (if 0 < m.cfg.chrBanks then m.cfg.chrRom.cells.read off else m.regs.chrRam.read off))) := by
  have hoff : chrOffset m x = some off := by
    rw [(chrWindow_shown hx m).2.2, hs, translate_windowAt, nbanks_chr_1K, ho]
  rw [exec_chrRd_chrMem ⟨hm, (within_iff ..).2 (by omega)⟩ hoff, chrMem_eq]
  split <;> rfl

/-- Settles O60: the tables of R181 and R182 read PM and CM of the byte BSEL now holds. -/
theorem bankSelectModeBitsMoveWindows : Obligations.BankSelectModeBitsMoveWindows := by
  rintro s m a d n h hc rfl
  have hscn : m.family = .scn := family_of_owner h.2 rfl
  refine ⟨_, m.update fun r => { r with bsel := d }, exec_scnBsel h hc, rfl, rfl,
    fun x sel hx hsel => ?_, fun x k sel off hk hkx hsel hoff => ?_⟩
  · have hpm : d.getLsbD 6 = decide (d.toNat / 64 % 2 = 1) := scnPm_eq { m.regs with bsel := d }
    refine exec_prgRd_scn (State.answer_inst ..) hx ?_
    rw [hsel, hpm]
    simp only [shownPrg, Instance.update_family, hscn, decide_eq_true_eq]
    rfl
  · have hcm : d.getLsbD 7 = decide (128 ≤ d.toNat) := scnCm_eq { m.regs with bsel := d }
    have hshown : sel = shownScnChr (d.getLsbD 7) m.regs.br k := by
      rw [hsel]
      cases d.getLsbD 7 <;> interval_cases k <;> rfl
    refine exec_chrRd_1K (State.answer_inst ..) (by omega) ?_ hoff
    simp only [shownChr, Instance.update_family, hscn]
    rw [hshown, hcm, hkx]
    rfl

end Sys2Proof.Machine

namespace Sys2Proof.Machine

/-! ### The cycle counter, one tick and many -/

/-- R190: a tick changes the prescaler, the counter and pending alone. -/
theorem Irq.tick_eq (reload : Nat) (q : Irq) : q.tick reload = { q with
    prescaler := (q.tick reload).prescaler
    counter := (q.tick reload).counter
    pending := (q.tick reload).pending } := by
  rw [← q.tick_latch reload, ← q.tick_enabled reload, ← q.tick_reload reload,
    ← q.tick_rearm reload, ← q.tick_mode reload]

/-- Settles O36: the tick's change field by field. -/
theorem cycleTickCounts : Obligations.CycleTickCounts := by
  rintro s m counts ⟨hm, hi⟩ rfl
  refine (command_next hm hi _).trans ?_
  rw [Instance.update, Irq.tick_eq, Irq.tick_prescaler, Irq.tick_counter, Irq.tick_pending]
  rfl

/-- R193: the flags come from the byte, and the armed bit decides on counter and prescaler. -/
theorem Irq.control_eq (reload : Nat) (q : Irq) (v : Byte) : q.control reload v = { q with
    rearm := v.getLsbD 0
    enabled := v.getLsbD 1
    mode := v.getLsbD 2
    counter := if v.getLsbD 1 = true then q.latch else q.counter
    prescaler := if v.getLsbD 1 = true then reload else q.prescaler } := by
  cases hv : v.getLsbD 1 <;> simp only [Irq.control, hv, if_true, Bool.false_eq_true, if_false]

/-- R193: CYC.CTRL delivers its data byte. -/
theorem exec_cycCtrl {s : State} {m : Instance} {a : Addr} {d : Byte}
    (h : Accepts s m (.cycCtrl a d)) (hc : m.Configured) : exec (.cycCtrl a d) s
      = .next (s.answer (m.update fun r =>
          { r with irq := r.irq.control m.cfg.prescalerReload d }) .nothing) := by
  refine (command_next h.1 h.2 _).trans ?_
  rw [h.resolve_eq hc rfl (by decide)]

/-- Settles O37: three commands; the acknowledge write alone takes no byte. -/
theorem cycleCounterWrites : Obligations.CycleCounterWrites := by
  intro s m a d hc
  refine ⟨fun h => ?_, fun h => ?_, fun h => command_next h.1 h.2 _⟩
  · refine (command_next h.1 h.2 _).trans ?_
    rw [h.resolve_eq hc rfl (by decide)]
    rfl
  · rw [exec_cycCtrl h hc, Instance.update, Irq.control_eq]
    rfl

/-! ### The interrupt after arming -/

/-- One more than a number, modulo `p`, restarts at the end of a period. -/
theorem succ_mod_eq_ite {p : Nat} (hp : 0 < p) (k : Nat) :
    (k + 1) % p = if k % p + 1 = p then 0 else k % p + 1 := by
  have hlt := Nat.mod_lt k hp
  rw [← Nat.mod_add_mod]
  split
  next h => rw [h, Nat.mod_self]
  next h => exact Nat.mod_eq_of_lt (by omega)

/-- The quotient by `p` rises at the end of a period. -/
theorem succ_div_eq_ite {p : Nat} (hp : 0 < p) (k : Nat) :
    (k + 1) / p = k / p + if k % p + 1 = p then 1 else 0 := by
  have hdvd : p ∣ k + 1 ↔ k % p + 1 = p := by
    rw [Nat.dvd_iff_mod_eq_zero, succ_mod_eq_ite hp]
    split <;> simp_all
  simp only [Nat.succ_div, hdvd]

/-- R195: the counter record of an armed counter that has counted `c` times since it was loaded from
a latch of `l`. -/
structure Irq.CountedUp (q : Irq) (l c : Nat) : Prop where
  counter : q.counter.toNat = l + c % (256 - l)
  pending : q.pending = decide (256 - l ≤ c)
  latch   : q.latch.toNat = l
  enabled : q.enabled = true

/-- R193: the control write that arms loads the counter from the latch. -/
theorem Irq.countedUp_control {q : Irq} {v : Byte} (reload : Nat) (hv : v.getLsbD 1 = true)
    (hp : q.pending = false) : (q.control reload v).CountedUp q.latch.toNat 0 := by
  have hlt := q.latch.isLt
  rw [Irq.control_eq]
  refine ⟨?_, ?_, rfl, hv⟩
  · rw [if_pos hv, Nat.zero_mod, Nat.add_zero]
  · rw [hp, eq_comm, decide_eq_false_iff_not]
    omega

/-- R191: the counter stands at its end when a whole period but one has been counted. -/
theorem Irq.CountedUp.atEnd_iff {q : Irq} {l c : Nat} (h : q.CountedUp l c) :
    q.counter = 0xFF ↔ c % (256 - l) + 1 = 256 - l := by
  have hcount := h.counter
  have hlt := h.latch ▸ q.latch.isLt
  rw [← BitVec.toNat_inj, hcount]
  change _ = 255 ↔ _
  omega

/-- R190, R191: a tick adds to the count if it is one that counts. -/
theorem Irq.CountedUp.tick {q : Irq} {l c : Nat} (h : q.CountedUp l c) (reload : Nat) :
    (q.tick reload).CountedUp l (c + q.counts.toNat) := by
  have hlt : l < 256 := h.latch ▸ q.latch.isLt
  have hpos : 0 < 256 - l := by omega
  have hmod := Nat.mod_lt c hpos
  refine ⟨?_, ?_, by rw [tick_latch, h.latch], by rw [tick_enabled, h.enabled]⟩
  · rw [tick_counter]
    cases q.counts
    case false => exact h.counter
    case true =>
      simp only [if_true, Bool.toNat_true, h.atEnd_iff, succ_mod_eq_ite hpos]
      split
      next => exact h.latch
      next hne =>
        have hcount := h.counter
        bv_omega
  · rw [tick_pending, h.pending, h.enabled, Bool.and_true]
    cases q.counts
    case false => simp
    case true =>
      have hend : (q.counter == 0xFF) = decide (c % (256 - l) + 1 = 256 - l) := by
        rw [Bool.eq_iff_iff, beq_iff_eq, decide_eq_true_eq, h.atEnd_iff]
      rw [Bool.true_and, hend, ← Bool.decide_or, decide_eq_decide, Bool.toNat_true]
      rcases Nat.lt_or_ge c (256 - l) with hc | hc
      · rw [Nat.mod_eq_of_lt hc]
        omega
      · omega

theorem Irq.tick_iterate_mode (reload k : Nat) (q : Irq) :
    ((Irq.tick reload)^[k] q).mode = q.mode := by
  induction k with
  | zero => rfl
  | succ k ih => rw [Function.iterate_succ_apply', tick_mode, ih]

/-- R195: in cycle mode every tick counts. -/
theorem Irq.CountedUp.iterate_cycleMode {q : Irq} {l : Nat} (h : q.CountedUp l 0)
    (hm : q.mode = true) (reload k : Nat) : ((Irq.tick reload)^[k] q).CountedUp l k := by
  induction k with
  | zero => exact h
  | succ k ih =>
    have hcounts : ((Irq.tick reload)^[k] q).counts = true := by
      rw [Irq.counts, tick_iterate_mode, hm, Bool.true_or]
    rw [Function.iterate_succ_apply']
    simpa only [hcounts, Bool.toNat_true] using ih.tick reload

/-- R195: in scanline-approximation mode the prescaler runs through `p` ticks for each count. -/
theorem Irq.CountedUp.iterate_scanlineMode {q : Irq} {l p : Nat} (h : q.CountedUp l 0)
    (hm : q.mode = false) (hq : q.prescaler = p) (hp : 0 < p) (k : Nat) :
    ((Irq.tick p)^[k] q).prescaler = p - k % p ∧ ((Irq.tick p)^[k] q).CountedUp l (k / p) := by
  induction k with
  | zero => simpa using ⟨hq, h⟩
  | succ k ih =>
    obtain ⟨hpre, hcount⟩ := ih
    have hmode := (tick_iterate_mode p k q).trans hm
    have hlt := Nat.mod_lt k hp
    have hend : p - k % p ≤ 1 ↔ k % p + 1 = p := by omega
    rw [Function.iterate_succ_apply', succ_mod_eq_ite hp, succ_div_eq_ite hp]
    constructor
    · rw [tick_prescaler, hmode, hpre]
      simp only [Bool.false_eq_true, if_false, hend]
      split <;> omega
    · have hcounts : ((Irq.tick p)^[k] q).counts.toNat = if k % p + 1 = p then 1 else 0 := by
        rw [Irq.counts, hmode, hpre, Bool.false_or, decide_eq_decide.2 hend, Bool.toNat,
          Bool.cond_decide]
      exact hcounts ▸ hcount.tick p

/-- `k` ticks complete and step the counter record `k` times (R190). -/
theorem runRepeat_clkCyc (k : Nat) {s : State} {m : Instance} (h : Accepts s m .clkCyc) :
    ∃ t u, runRepeat .clkCyc k s = .next t ∧ t.inst = some u ∧
      u.regs.irq = (Irq.tick m.cfg.prescalerReload)^[k] m.regs.irq := by
  obtain ⟨t, hrun, ht⟩ := runRepeat_command (fun _ => rfl) k (fun _ => rfl) h
  have hirq : Function.Semiconj Regs.irq
      (fun r => { r with irq := r.irq.tick m.cfg.prescalerReload })
      (Irq.tick m.cfg.prescalerReload) := fun _ => rfl
  exact ⟨t, _, hrun, ht, hirq.iterate_right k m.regs⟩

/-- R190, R193: the control write completes, and `k` ticks after it step the record it leaves. -/
theorem runRepeat_clkCyc_after_cycCtrl {s : State} {m : Instance} {a : Addr} {d : Byte}
    (h : Accepts s m (.cycCtrl a d)) (hc : m.Configured) :
    ∃ t, exec (.cycCtrl a d) s = .next t ∧
      ∀ k, ∃ t' u, runRepeat .clkCyc k t = .next t' ∧ t'.inst = some u ∧
        u.regs.irq = (Irq.tick m.cfg.prescalerReload)^[k]
          (m.regs.irq.control m.cfg.prescalerReload d) :=
  ⟨_, exec_cycCtrl h hc, fun k => runRepeat_clkCyc k
    ⟨State.answer_inst .., by rw [Instance.update_family, family_of_owner h.2 rfl]; rfl⟩⟩

/-- Settles O39: the write starts the count, and each tick is a count. -/
theorem cycleModeInterruptTiming : Obligations.CycleModeInterruptTiming := by
  rintro s m a d l h hc harm hmode hp rfl
  obtain ⟨t, hexec, hrun⟩ := runRepeat_clkCyc_after_cycCtrl h hc
  refine ⟨t, hexec, fun k => ?_⟩
  obtain ⟨t', u, hk, ht, hq⟩ := hrun k
  have hup := (Irq.countedUp_control m.cfg.prescalerReload harm hp).iterate_cycleMode
    (by rwa [Irq.control_eq]) m.cfg.prescalerReload k
  exact ⟨t', u, hk, ht, hq ▸ hup.counter, hq ▸ hup.pending⟩

/-- Settles O40: the write starts the count with a whole prescaler, and `p` ticks are a count. -/
theorem scanlineModeInterruptTiming : Obligations.ScanlineModeInterruptTiming := by
  rintro s m a d l p h hc harm hmode hp rfl rfl
  have hpos : 0 < m.cfg.prescalerReload := by
    obtain ⟨-, -, -, -, -, hpre, -⟩ := (cfgOk_iff m.cfg).1 hc.checked
    exact hpre
  obtain ⟨t, hexec, hrun⟩ := runRepeat_clkCyc_after_cycCtrl h hc
  refine ⟨t, hexec, fun k => ?_⟩
  obtain ⟨t', u, hk, ht, hq⟩ := hrun k
  obtain ⟨hpre, hup⟩ := (Irq.countedUp_control m.cfg.prescalerReload harm hp).iterate_scanlineMode
    (by rwa [Irq.control_eq]) (by simp only [Irq.control_eq, harm, if_true]) hpos k
  refine ⟨t', u, hk, ht, hq ▸ hpre, hq ▸ hup.counter, ?_⟩
  rw [hq, hup.pending, decide_eq_decide, Nat.le_div_iff_mul_le hpos]

/-! ### The bank writes of CYC -/

/-- R93, R200, R203: the index is `a2` in the low half of `CR` or in the high one. -/
theorem toNat_cycIndex (high : Bool) (a : Addr) :
    (cycIndex high a).toNat = (if high = true then 4 else 0) + a.toNat % 4 := by
  have ha : a.a2.toNat < 2 ^ 2 := a.a2.isLt
  rw [cycIndex, BitVec.toNat_append, ← Nat.shiftLeft_add_eq_or_of_lt ha, toNat_a2]
  cases high <;> rfl

/-- R93, R200, R203: a write to `CR` through the index, element by element. -/
theorem getElem_setElem_cycIndex (high : Bool) (v : Vector Byte 8) (a : Addr) (b : Byte)
    (k : Fin 8) : (setElem v (cycIndex high a) b)[k] =
      if k.val = (if high = true then 4 else 0) + a.toNat % 4 then b else v[k] := by
  rw [getElem_setElem, toNat_cycIndex]
  simp only [eq_comm]

/-- Settles O38: four commands; the last two write the element of `CR` their address numbers. -/
theorem cycleBankWrites : Obligations.CycleBankWrites := by
  intro s m a d hc
  refine ⟨fun h => ?_, fun h => ?_,
    fun h => ⟨setElem m.regs.cr (cycIndex false a) d, ?_, fun k => ?elemLow⟩,
    fun h => ⟨setElem m.regs.cr (cycIndex true a) d, ?_, getElem_setElem_cycIndex true _ a d⟩⟩
  case elemLow => simpa using getElem_setElem_cycIndex false m.regs.cr a d k
  all_goals
    refine (command_next h.1 h.2 _).trans ?_
    rw [h.resolve_eq hc rfl (by decide)]
    rfl

end Sys2Proof.Machine

namespace Sys2Proof.Machine

/-! ### The channel scheduler, one tick and many -/

/-- R211: the tick that brings the divider to its end steps the channel, any other one counts. -/
theorem Sched.tick_eq (divisor : Nat) (c : Sched) : c.tick divisor =
    if c.div + 1 = divisor then
      { c with div := 0, cur := if c.cur = 0 then c.count else c.cur - 1 }
    else { c with div := c.div + 1 } := by
  simp only [tick, serves, decide_eq_true_eq]

/-- R211: the tick that brings the divider to its end puts out the current channel. -/
theorem Sched.emits_eq (divisor : Nat) (c : Sched) : c.emits divisor =
    if c.div + 1 = divisor then .service c.cur else .nothing := by
  simp only [emits, serves, decide_eq_true_eq]

/-- R211: CLK.MUX steps the scheduler and puts out what the tick emits. -/
theorem exec_clkMux {s : State} {m : Instance} (h : Accepts s m .clkMux) : exec .clkMux s
    = .next (s.answer (m.update fun r => { r with ch := r.ch.tick m.cfg.channelDivisor })
        (m.regs.ch.emits m.cfg.channelDivisor)) :=
  perform_next h.1 h.2 _

/-- `n + 1` ticks complete; the last puts out what it emits after the `n` before it (R211). -/
theorem runRepeat_clkMux (n : Nat) {s : State} {m : Instance} (h : Accepts s m .clkMux) :
    ∃ t, runRepeat .clkMux (n + 1) s = .next t ∧ t.out =
      ((Sched.tick m.cfg.channelDivisor)^[n] m.regs.ch).emits m.cfg.channelDivisor := by
  induction n generalizing s m with
  | zero => exact ⟨_, runInstrs_cons_of_next (exec_clkMux h), rfl⟩
  | succ n ih =>
    obtain ⟨t, hrun, hout⟩ := ih
      (m := m.update fun r => { r with ch := r.ch.tick m.cfg.channelDivisor })
      ⟨State.answer_inst .., h.2⟩
    exact ⟨t, (runInstrs_cons_of_next (exec_clkMux h)).trans hrun, hout⟩

/-- R212: the scheduler `k` ticks after the divider stood at zero with channel `c`, the highest
active one, current. -/
structure Sched.CyclingDown (q : Sched) (divisor c k : Nat) : Prop where
  count : q.count.toNat = c
  cur   : q.cur.toNat = c - k / divisor % (c + 1)
  div   : q.div = k % divisor

/-- R210: a count write starts the cycle at the channel it names, wherever the divider stands. -/
theorem Sched.cyclingDown_setCount {q : Sched} {divisor : Nat} (hq : q.div < divisor)
    (n : BitVec 3) : (q.setCount n).CyclingDown divisor n.toNat q.div := by
  refine ⟨rfl, ?_, (Nat.mod_eq_of_lt hq).symm⟩
  rw [Nat.div_eq_of_lt hq, Nat.zero_mod, Nat.sub_zero]
  rfl

/-- R211: the channel after the current one is the one below it, and after channel 0 the highest. -/
theorem Sched.CyclingDown.toNat_next {q : Sched} {divisor c k : Nat}
    (h : q.CyclingDown divisor c k) :
    (if q.cur = 0 then q.count else q.cur - 1).toNat = c - (k / divisor + 1) % (c + 1) := by
  have hpos : 0 < c + 1 := c.succ_pos
  have hlt := Nat.mod_lt (k / divisor) hpos
  have hcur := h.cur
  have hzero : q.cur = 0 ↔ k / divisor % (c + 1) + 1 = c + 1 := by
    rw [← BitVec.toNat_inj, hcur]
    change _ = 0 ↔ _
    omega
  simp only [hzero, succ_mod_eq_ite hpos]
  split
  next => exact h.count
  next => bv_omega

theorem Sched.CyclingDown.tick {q : Sched} {divisor c k : Nat} (h : q.CyclingDown divisor c k)
    (hd : 0 < divisor) : (q.tick divisor).CyclingDown divisor c (k + 1) := by
  refine ⟨by rw [tick_count, h.count], ?_, ?_⟩
  all_goals rw [tick_eq, h.div]
  · rw [succ_div_eq_ite hd]
    split
    next => exact h.toNat_next
    next => exact h.cur
  · rw [succ_mod_eq_ite hd]
    split <;> rfl

theorem Sched.CyclingDown.iterate {q : Sched} {divisor c k : Nat} (h : q.CyclingDown divisor c k)
    (hd : 0 < divisor) (n : Nat) :
    ((Sched.tick divisor)^[n] q).CyclingDown divisor c (k + n) := by
  induction n with
  | zero => exact h
  | succ n ih =>
    rw [Function.iterate_succ_apply']
    exact ih.tick hd

/-- R212: the tick that completes another period serves the channel of that period. -/
theorem Sched.CyclingDown.emits {q : Sched} {divisor c k : Nat} (h : q.CyclingDown divisor c k)
    (hd : 0 < divisor) : q.emits divisor =
      if (k + 1) % divisor = 0 then
        .service (BitVec.ofNat 3 (c - ((k + 1) / divisor - 1) % (c + 1)))
      else .nothing := by
  have hend : (k + 1) % divisor = 0 ↔ k % divisor + 1 = divisor := by
    rw [succ_mod_eq_ite hd]
    split <;> simp [*]
  rw [emits_eq, h.div]
  simp only [hend]
  split
  next hlast =>
    rw [succ_div_eq_ite hd, if_pos hlast, Nat.add_sub_cancel, ← h.cur, BitVec.ofNat_toNat,
      BitVec.setWidth_eq]
  next => rfl

/-- R210: MUX.COUNT delivers data bits 6:4 to the scheduler. -/
theorem exec_muxCount {s : State} {m : Instance} {a : Addr} {d : Byte}
    (h : Accepts s m (.muxCount a d)) : exec (.muxCount a d) s = .next (s.answer
      (m.update fun r => { r with ch := r.ch.setCount (BitVec.ofNat 3 (d.toNat / 16)) })
      .nothing) := by
  have hbits : d.extractLsb' 4 3 = BitVec.ofNat 3 (d.toNat / 16) :=
    congrArg (BitVec.ofNat 3) (Nat.shiftRight_eq_div_pow d.toNat 4)
  rw [← hbits]
  exact command_next h.1 h.2 _

/-- R210, R211: the count write completes, and the ticks after it step the scheduler it leaves. -/
theorem runRepeat_clkMux_after_muxCount {s : State} {m : Instance} {a : Addr} {d : Byte}
    (h : Accepts s m (.muxCount a d)) :
    ∃ t, exec (.muxCount a d) s = .next t ∧
      ∀ n, ∃ u, runRepeat .clkMux (n + 1) t = .next u ∧
        u.out = ((Sched.tick m.cfg.channelDivisor)^[n]
          (m.regs.ch.setCount (BitVec.ofNat 3 (d.toNat / 16)))).emits m.cfg.channelDivisor :=
  ⟨_, exec_muxCount h, fun n => runRepeat_clkMux n
    ⟨State.answer_inst .., by rw [Instance.update_family, family_of_owner h.2 rfl]; rfl⟩⟩

/-- Settles O44: the count write starts the cycle with the divider where it stood, each tick steps
it, and the last one emits. -/
theorem channelServiceSequence : Obligations.ChannelServiceSequence := by
  rintro s m a d c v dv h hc rfl rfl hv
  have hcount : (BitVec.ofNat 3 (d.toNat / 16)).toNat = c := by rw [hc, BitVec.toNat_ofNat]
  have hstart := Sched.cyclingDown_setCount hv (BitVec.ofNat 3 (d.toNat / 16))
  rw [hcount] at hstart
  have hpos := Nat.zero_lt_of_lt hv
  obtain ⟨t, hexec, hrun⟩ := runRepeat_clkMux_after_muxCount h
  refine ⟨t, hexec, fun n hn => ?_⟩
  obtain ⟨n, rfl⟩ := Nat.exists_eq_add_of_le' hn
  obtain ⟨u, hticks, hout⟩ := hrun n
  exact ⟨u, hticks, hout.trans ((hstart.iterate hpos n).emits hpos)⟩

/-- Settles O41: the count write by its equation. -/
theorem channelCountWriteRestartsCycle : Obligations.ChannelCountWriteRestartsCycle :=
  fun _ _ _ _ h => exec_muxCount h

/-- Settles O42: the tick and its output split on the divider alike. -/
theorem channelTickServesOneChannel : Obligations.ChannelTickServesOneChannel := by
  intro s m h
  rw [exec_clkMux h, Instance.update, Sched.tick_eq, Sched.emits_eq]
  split <;> rfl

/-! ### The bank writes of MUX -/

/-- R93, R214. -/
theorem toNat_muxIndex (a : Addr) : (muxIndex a).toNat = a.toNat / 2048 % 8 := by
  simp [muxIndex, Nat.shiftRight_eq_div_pow]

/-- R215 to R217: the three program bank writes are one command with register `n`. -/
theorem exec_muxPrg {s : State} {m : Instance} {a : Addr} {d : Byte} {i : Instr} {n : Fin 3}
    (hi : (i = .muxPrg0 a d ∧ n = 0) ∨ (i = .muxPrg1 a d ∧ n = 1) ∨ (i = .muxPrg2 a d ∧ n = 2))
    (h : Accepts s m i) (hc : m.Configured) : exec i s = .next (s.answer
      (m.update fun r => { r with mp := r.mp.set n (BitVec.ofNat 6 d.toNat) }) .nothing) := by
  rcases hi with ⟨rfl, rfl⟩ | ⟨rfl, rfl⟩ | ⟨rfl, rfl⟩
  all_goals
    refine (command_next h.1 h.2 _).trans ?_
    rw [h.resolve_eq hc rfl (by decide)]
    rfl

/-- Settles O43: MUX.CHR writes the element of `CR` its address numbers, the others theirs of
`MP`. -/
theorem muxBankWrites : Obligations.MuxBankWrites := by
  intro s m a d hc
  refine ⟨fun h => ⟨setElem m.regs.cr (muxIndex a) d, ?_, fun k => ?_⟩,
    fun i n hi h => ⟨m.regs.mp.set n (BitVec.ofNat 6 d.toNat), exec_muxPrg hi h hc, fun k => ?_⟩⟩
  · refine (command_next h.1 h.2 _).trans ?_
    rw [h.resolve_eq hc rfl (by decide)]
    rfl
  · rw [getElem_setElem, toNat_muxIndex]
    simp only [eq_comm]
  · simp only [Fin.getElem_fin, Vector.getElem_set, Fin.val_inj, eq_comm]

end Sys2Proof.Machine

namespace Sys2Proof.Machine

/-! ### What writes the mirroring mode -/

/-- No mirroring write names four-screen (R226). -/
theorem serMirr_ne_fourScreen (ctrl : BitVec 5) : serMirr ctrl ≠ .fourScreen := by
  unfold serMirr
  split <;> decide

theorem scnMirrMode_ne_fourScreen (d : Byte) : scnMirrMode d ≠ .fourScreen := by
  unfold scnMirrMode
  split <;> decide

theorem cycMirrMode_ne_fourScreen (d : Byte) : cycMirrMode d ≠ .fourScreen := by
  unfold cycMirrMode
  split <;> decide

/-- The operations that write the mode of the loaded cartridge `m` (R226). -/
inductive MirrWrite (m : Instance) : Instr → Prop
  /-- the fifth shift write of a sequence, in quarter 0 (R154) -/
  | ser {a d} (hf : m.family = .ser) (hc : m.regs.sr.cnt.val = 4) : MirrWrite m (.serSh0 a d)
  /-- R179 -/
  | scn {a d} (hf : m.family = .scn) : MirrWrite m (.scnMirr a d)
  /-- R202 -/
  | cyc {a d} (hf : m.family = .cyc) : MirrWrite m (.cycMirr a d)

/-- R225: FIX, DSC and MUX have no such operation. -/
theorem MirrWrite.family {m : Instance} {i : Instr} (h : MirrWrite m i) :
    m.family = .ser ∨ m.family = .scn ∨ m.family = .cyc := by
  cases h
  case ser hf _ => exact .inl hf
  case scn hf => exact .inr (.inl hf)
  case cyc hf => exact .inr (.inr hf)

/-- A register change that moves the mode is a mirroring write, and moves it to a mode other than
four-screen. -/
theorem RegsChange.mirr_written {m : Instance} {i : Instr} {r : Regs} (hc : RegsChange m i r)
    (h : r.mirr ≠ m.regs.mirr) : MirrWrite m i ∧ r.mirr ≠ .fourScreen := by
  have h4 : m.cfg.initMirr ≠ .fourScreen := fun h4 => h (hc.mirr_of_fourScreen h4)
  cases hc
  case serLoadCtrl hf hcnt => exact ⟨.ser hf hcnt, by simp [h4, serMirr_ne_fourScreen]⟩
  case scnMirr hf => exact ⟨.scn hf, by simp [h4, scnMirrMode_ne_fourScreen]⟩
  case cycMirr hf => exact ⟨.cyc hf, by simp [h4, cycMirrMode_ne_fourScreen]⟩
  all_goals exact absurd rfl h

/-- RESTORE makes the mode four-screen on another cartridge in SCN and CYC only, from a blob that
is. -/
theorem fourScreen_of_restoredMirr {m : Instance} {b : Regs} (h4 : m.cfg.initMirr ≠ .fourScreen)
    (h : restoredMirr m b = .fourScreen) :
    b.mirr = .fourScreen ∧ (m.family = .scn ∨ m.family = .cyc) := by
  cases hf : m.family
  case ser => exact absurd ((restoredMirr_ser hf h4 b).symm.trans h) (serMirr_ne_fourScreen _)
  case scn => exact ⟨(restoredMirr_blob (.inl hf) h4 b).symm.trans h, .inl rfl⟩
  case cyc => exact ⟨(restoredMirr_blob (.inr hf) h4 b).symm.trans h, .inr rfl⟩
  all_goals exact absurd ((restoredMirr_fixed (by simp [hf]) b).symm.trans h) h4

/-- R227: every completed operation keeps a four-screen cartridge four-screen, and INIT makes it so. -/
theorem exec_keeps_fourScreen {i : Instr} {s t : State}
    (hs : ∀ m, s.inst = some m → m.cfg.initMirr = .fourScreen → m.regs.mirr = .fourScreen)
    (he : exec i s = .next t) :
    ∀ u, t.inst = some u → u.cfg.initMirr = .fourScreen → u.regs.mirr = .fourScreen := by
  refine exec_keeps hs he ?init ?restore ?change
  case init => exact fun _ _ _ _ h4 => h4
  case restore =>
    exact fun m _ _ _ h4 => (restoreRegs_mirr ..).trans (restoredMirr_fourScreen h4 _)
  case change => exact fun m r hm hr h4 => (hr.mirr_of_fourScreen h4).trans (hm h4)

/-- Settles O45: the lock is kept by INIT, RESTORE and every register change; elsewhere INIT starts in
the configured mode, RESTORE takes four-screen from the blob, and no register change moves there. -/
theorem fourScreenIsLocked : Obligations.FourScreenIsLocked := by
  intro s t u i he hu
  refine ⟨fun h4 hs => exec_keeps_fourScreen (fun m hm _ => hs m hm) he u hu h4, fun h4 hmode => ?_⟩
  cases hm : s.inst with
  | none =>
    obtain rfl := exec_completed_unloaded hm he
    obtain ⟨f, -, -, -, rfl⟩ := exec_init he
    cases hu
    exact absurd hmode h4
  | some m =>
    rcases exec_loaded_cases hm he hu with ⟨hi, -, rfl⟩ | ⟨r, hr, rfl⟩
    · rw [Instance.update_regs, restoreRegs_mirr] at hmode
      exact .inr ⟨hi, fourScreen_of_restoredMirr h4 hmode⟩
    · have hsame : r.mirr = m.regs.mirr := by_contra fun hne => (hr.mirr_written hne).2 hmode
      exact .inl ⟨m, rfl, hsame.symm.trans hmode⟩

/-- R225, R227: RESTORE changes the mode of a cartridge with the invariant only if that is neither
four-screen nor of a family with a fixed mode. -/
theorem Instance.Inv.unlocked_of_restoredMirr_ne {m : Instance} (hm : m.Inv) {b : Regs}
    (h : restoredMirr m b ≠ m.regs.mirr) :
    m.cfg.initMirr ≠ .fourScreen ∧ (m.family = .ser ∨ m.family = .scn ∨ m.family = .cyc) := by
  refine ⟨fun h4 => h ((restoredMirr_fourScreen h4 b).trans (hm.regs.locked h4).symm), ?_⟩
  by_contra hf
  have hfixed : m.family = .fix ∨ m.family = .dsc ∨ m.family = .mux := by
    cases hfam : m.family <;> simp_all
  exact h ((restoredMirr_fixed hfixed b).trans (hm.regs.fixedMode hfixed).symm)

/-- Settles O46: the change is a RESTORE or a mirroring write. -/
theorem onlyMirroringWritesChangeMode : Obligations.OnlyMirroringWritesChangeMode := by
  intro s t m u i hm hinv he hu hne
  rcases exec_loaded_cases hm he hu with ⟨hi, -, rfl⟩ | ⟨r, hr, rfl⟩
  · rw [Instance.update_regs, restoreRegs_mirr] at hne ⊢
    obtain ⟨h4, hf⟩ := (hinv hi).unlocked_of_restoredMirr_ne hne
    refine ⟨h4, hf, fun hmode => ?_, .inl hi⟩
    obtain ⟨hb, hblob⟩ := fourScreen_of_restoredMirr h4 hmode
    exact ⟨hi, by rcases hblob with h | h <;> simp [h], hb⟩
  · obtain ⟨hw, hmode⟩ := hr.mirr_written hne
    refine ⟨fun h4 => hne (hr.mirr_of_fourScreen h4), hw.family, fun h => absurd h hmode, .inr ?_⟩
    cases hw
    case ser hcnt => exact .inl ⟨_, _, rfl, hcnt⟩
    case scn => exact .inr (.inl ⟨_, _, rfl⟩)
    case cyc => exact .inr (.inr ⟨_, _, rfl⟩)

/-! ### The queries and the page function -/

/-- Settles O47: every family has both queries. -/
theorem queriesReportModeAndPending : Obligations.QueriesReportModeAndPending :=
  fun _ _ h => ⟨query_next h rfl _, query_next h rfl _⟩

/-- Settles O48: each mode's field of the address in numbers. -/
theorem nametablePageOfMode : Obligations.NametablePageOfMode := by
  intro a
  have field (k w : Nat) : (a.extractLsb' k w).toNat = a.toNat / 2 ^ k % 2 ^ w := by
    rw [BitVec.extractLsb'_toNat, Nat.shiftRight_eq_div_pow]
  exact ⟨field 11 1, field 10 1, rfl, rfl, field 10 2⟩

end Sys2Proof.Machine

namespace Sys2Proof.Machine

/-! ### INIT by its refusals, SAVE and UNLOAD by their equations -/

/-- R241: the mapper table read from both sides. -/
theorem familyOf_eq_some_iff (n : Nat) (f : Family) : familyOf n = some f ↔
    (n, f) ∈ [(0, Family.fix), (1, .ser), (2, .dsc), (4, .scn), (19, .mux), (24, .cyc)] := by
  unfold familyOf
  split <;> simp_all [eq_comm]

/-- R242: INIT on a loaded block is refused before anything of the configuration is read. -/
theorem exec_init_loaded {s : State} {m : Instance} (hs : s.inst = some m) :
    exec .init s = .refused .alreadyLoaded := by
  simp [exec, execInit, hs]

theorem exec_init_unknownMapper {s : State} (hs : s.inst = none)
    (hf : familyOf s.operand.cfg.mapper = none) :
    exec .init s = .refused (.unknownMapper s.operand.cfg.mapper) := by
  simp [exec, execInit, hs, hf]

theorem exec_init_badConfig {s : State} {f : Family} (hs : s.inst = none)
    (hf : familyOf s.operand.cfg.mapper = some f) (hc : ¬cfgOk s.operand.cfg = true) :
    exec .init s = .refused .badConfig := by
  simp [exec, execInit, hs, hf, hc]

theorem hasSize_iff (r : Image) (size : Nat) :
    r.hasSize size = true ↔ r.size = size ∧ Mem.wf size r.cells = true := by
  simp [Image.hasSize]

/-- Settles O50: `execInit` branch by branch; `cfgOk` fails on each configuration R240 rejects, and
a configuration past those checks fails only by a listing that is not canonical. -/
theorem initChecksInOrder : Obligations.InitChecksInOrder := by
  refine ⟨familyOf_eq_some_iff, ?_⟩
  rintro s c rfl
  cases hs : s.inst with
  | some m => exact exec_init_loaded hs
  | none =>
    rw [if_neg (not_not.2 rfl)]
    cases hf : familyOf s.operand.cfg.mapper with
    | none => exact exec_init_unknownMapper hs hf
    | some f =>
      rw [if_neg (Option.some_ne_none f)]
      split
      next hbad =>
        refine exec_init_badConfig hs hf fun hok => ?_
        obtain ⟨hbanks, hprg, hchr, -, -, hpre, hdiv⟩ := (cfgOk_iff _).1 hok
        have hprgSize := ((hasSize_iff ..).1 hprg).1
        have hchrSize := ((hasSize_iff ..).1 hchr).1
        omega
      next hgood =>
        intro hprg hchr hprgRam hchrRam
        simp only [not_or, not_not] at hgood
        obtain ⟨hbanks, hprgSize, hchrSize, hpre, hdiv⟩ := hgood
        have hok : cfgOk s.operand.cfg = true := (cfgOk_iff _).2
          ⟨by omega, (hasSize_iff ..).2 ⟨hprgSize, hprg⟩,
            (hasSize_iff ..).2 ⟨hchrSize, hchr⟩, hprgRam, hchrRam, by omega, by omega⟩
        exact ⟨_, exec_init_next hs hf hok, Option.some_ne_none _⟩

/-- R243: SAVE completes in every family and leaves the cartridge as it is. -/
theorem exec_save_next {s : State} {m : Instance} (hs : s.inst = some m) :
    exec .save s = .next (s.answer m (.blob (blobOf m))) :=
  query_next hs rfl _

theorem exec_unload_next {s : State} {m : Instance} (hs : s.inst = some m) :
    exec .unload s = .next { s with inst := none, out := .nothing } := by
  simp [exec, execUnload, hs]

/-- Settles O52: the equations of SAVE and UNLOAD; `blobOf` gives the five parts of the blob. -/
theorem saveCapturesAndUnloadDiscards : Obligations.SaveCapturesAndUnloadDiscards :=
  fun _ _ hs => ⟨exec_save_next hs, exec_unload_next hs⟩

/-! ### The program window at the top of the address space after load -/

/-- R43, R28: whatever the initial mirroring, P is 3 after load. -/
theorem serP_loadRegs (c : Cfg) : serP (loadRegs c) = 3 := by
  have hctrl : (loadRegs c).ctrl = 0x0C ||| menc c.initMirr := rfl
  unfold serP
  rw [hctrl]
  cases c.initMirr <;> decide

/-- R293: after load an address of 0xE000 and above is shown by a window of 16 or 8 KiB on the last
bank of its size. -/
theorem shownPrg_loadInstance_top (f : Family) (c : Cfg) {a : Nat} (ha : 0xE000 ≤ a) :
    shownPrg (loadInstance f c) a = (c.prgBanks - 1, 16384) ∨
      shownPrg (loadInstance f c) a = (2 * c.prgBanks - 1, 8192) := by
  have hC : ¬ a < 0xC000 := by omega
  have hP := serP_loadRegs c
  rw [serP_eq] at hP
  cases f
  case fix | dsc => exact .inl (by simp [shownPrg, loadInstance, hC])
  case ser => exact .inl (by simp [shownPrg, loadInstance, hP, hC])
  case scn | cyc | mux =>
    exact .inr (by simp [shownPrg, loadInstance, hC, Nat.not_lt.2 ha, show ¬ a < 0xA000 by omega])

/-- Settles O11: the last bank ends where the ROM ends, as its window ends at 0x10000. -/
theorem lastBankAtTopAfterLoad : Obligations.LastBankAtTopAfterLoad := by
  intro f c a hb ha
  have hlt := a.isLt
  have hcfg : (loadInstance f c).cfg = c := rfl
  rw [(prgWindow_shown (by omega) _).2.2, hcfg, Option.some_inj]
  rcases shownPrg_loadInstance_top f c ha with h | h <;> rw [h, translate_windowAt] <;> dsimp only
  · rw [nbanks_prg_16K, Nat.mod_eq_of_lt (by omega)]
    omega
  · rw [nbanks_prg_8K, Nat.mod_eq_of_lt (by omega)]
    omega

/-! ### Save and restore -/

/-- R35, R41 (d): the counter record of this cartridge comes back whole. -/
theorem Irq.restore_eq {c : Cfg} {f : Family} {b r : Regs} (hb : RegsInv c f b)
    (hu : SameUnused f r b) : Irq.restore f c.prescalerReload b.irq r.irq = b.irq := by
  cases f
  case scn =>
    obtain ⟨-, -, hrearm, hmode, hprescaler⟩ := hu.cyc (by decide)
    rw [Irq.restore_scn, hrearm, hmode, hprescaler]
  case cyc =>
    obtain ⟨-, -, hreload⟩ := hu.scn (by decide)
    rw [Irq.restore_cyc, hreload, restoredPrescaler_eq hb.prescalerLe]
  all_goals exact hu.irq (by decide) (by decide)

/-- R245: registers of this cartridge come back whole, where the elements the family does not use
agree with those of the instance. -/
theorem restoreRegs_eq {m : Instance} {b r : Regs} (hb : RegsInv m.cfg m.family b)
    (hu : SameUnused m.family r b) : restoreRegs m b r = b := by
  have hmirr := restoredMirr_eq hb
  have hirq := Irq.restore_eq hb hu
  have hch := Sched.restore_eq hb.divLt
  obtain ⟨hser, hdsc, hscn, hcyc, hmux, hcr, hnoIrq⟩ := hu
  obtain ⟨⟩ := b
  cases hf : m.family <;> simp_all [restoreRegs]

/-- R39: the configuration decides the family. -/
theorem Instance.Configured.family_eq {m m' : Instance} (h : m.Configured) (h' : m'.Configured)
    (hc : m'.cfg = m.cfg) : m'.family = m.family := by
  rw [← Option.some_inj, ← h.family, ← h'.family, hc]

/-- R39: configured instances of one cartridge differ in their registers only. -/
theorem Instance.Configured.eq_of_regs {m m' : Instance} (h : m.Configured) (h' : m'.Configured)
    (hc : m'.cfg = m.cfg) (hr : m'.regs = m.regs) : m' = m := by
  have hf := h.family_eq h' hc
  have hp : m'.conflict = m.conflict := by rw [h.conflict, h'.conflict, hf, hc]
  cases m
  cases m'
  simp_all

/-- R247: RESTORE of the registers of `m` into an instance of the same cartridge makes it `m`. -/
theorem Instance.Inv.update_restoreRegs_eq {m m' : Instance} (h : m.Inv) (h' : m'.Inv)
    (hc : m'.cfg = m.cfg) : m'.update (restoreRegs m' m.regs) = m := by
  refine h.configured.eq_of_regs (h'.configured.update _) hc ?_
  have hb := h.regs
  rw [← h.configured.family_eq h'.configured hc, ← hc] at hb
  exact restoreRegs_eq hb (h'.regs.unused.trans hb.unused.symm)

/-- No operation reads the output of the one before. -/
theorem exec_with_out (i : Instr) (s : State) (o : Output) :
    exec i { s with out := o } = exec i s := by
  cases i <;> rfl

/-- A step with a request to take is decided by the loaded instance and the requests: the operand is
the request's own (R91), and the output is written anew. -/
theorem step_congr {s t : State} {r : Request} {rest : List Request} (hi : s.inst = t.inst)
    (hs : s.requests = r :: rest) (ht : t.requests = r :: rest) : step s = step t := by
  have hphase : s.phase = t.phase := by rw [State.phase, State.phase, hi]
  have htake : s.takeRequest r rest = { t.takeRequest r rest with out := s.out } := by
    simp only [State.takeRequest, hi]
  cases hd : decode t.phase r.word with
  | error e => rw [step_of_decode_error hs (hphase ▸ hd), step_of_decode_error ht hd]
  | ok i => rw [step_of_decode_ok hs (hphase ▸ hd), step_of_decode_ok ht hd, htake, exec_with_out]

/-- What a list of requests shows depends on the loaded instance alone. -/
theorem observe_congr {s t : State} (hi : s.inst = t.inst) (reqs : List Request) :
    observe reqs.length { s with requests := reqs }
      = observe reqs.length { t with requests := reqs } := by
  cases reqs with
  | nil => simp only [List.length_nil, observe, hi]
  | cons r rest =>
    have hstep : step { s with requests := r :: rest } = step { t with requests := r :: rest } :=
      step_congr hi rfl rfl
    simp only [List.length_cons, observe]
    rw [hstep, hi]

/-- Settles O54: the blob fits, RESTORE makes the instance the saved one, and a run sees no other
part of the state. -/
theorem saveRestoreRoundTrip : Obligations.SaveRestoreRoundTrip := by
  intro s w m m' hs hm hw hm' hc
  have hfit : blobFits m' (blobOf m) = true := (blobFits_iff ..).2
    ⟨rfl, (hm.configured.family_eq hm'.configured hc).symm, congrArg Cfg.hasPrgRam hc.symm,
      congrArg hasChrRam hc.symm, hc ▸ hm.regs.ram⟩
  have hinst : some (m'.update (restoreRegs m' m.regs)) = s.inst :=
    (congrArg some (hm.update_restoreRegs_eq hm' hc)).trans hs.symm
  exact ⟨_, _, _, exec_save_next hs, rfl, exec_restore_next hw hfit, hinst, observe_congr hinst⟩

end Sys2Proof.Machine
